-- ==== Sys2Proof/Word.lean ====
section
/-! DEFINITION. The 32-bit word of a host transaction and of a command, the byte of a host-side byte string, and the
eight names of the operand registers (spec/10_state.md R30, spec/20_memory.md R71, spec/00_scope.md R22). -/

namespace Sys2Proof

/-- A 32-bit word: what one host transaction carries, and a command word (R71, R100). -/
abbrev Word := BitVec 32

/-- A byte of a byte string, which exists only on the host's side (R22, R78). -/
abbrev Byte := BitVec 8

/-- The operand registers x0 to x7: no fixed roles, none hardwired, no aliases (R11, R30, R32). -/
inductive Reg where
  | x0 | x1 | x2 | x3 | x4 | x5 | x6 | x7
deriving DecidableEq, Repr

end Sys2Proof
end

