-- ==== Sys2Proof/Config.lean ====
section
/-! DEFINITION. What is fixed for the machine: the constants of spec/00_scope.md R12 (each literal once, as
spec/93_implementation_defined.md part 3 asks), the constants of PARAM, the instance of the open parameter W that
`State.reset` is, and the two free values (on the host's side). -/

namespace Sys2Proof.Config

/-- NREG, the number of operand registers (R11). -/
abbrev nreg : Nat := 8

/-- VERSION, the architecture version in PARAM (R52). -/
abbrev version : BitVec 8 := 1#8

/-- The instance of the open parameter NLIMB = W / 32 that `Machine.State.reset` is: 64, so W = 2048.
DESIGN CHOICE (log 2): R10 leaves W open. Statements over all states hold for every NLIMB. -/
abbrev resetNlimb : Nat := 64

/-- The least and the greatest NLIMB (R10). -/
abbrev nlimbMin : Nat := 2
/-- The greatest NLIMB (R10). -/
abbrev nlimbMax : Nat := 65535

/-- The default number of Miller-Rabin rounds, the reset value of ROUNDS (R12, R50). -/
abbrev defaultRounds : Word := 40#32

/-- The padding marker's byte at offset P + 2 (R12, R200, R213). -/
abbrev markerHigh : Nat := 1
/-- The padding marker's byte at offset P (R12, R200, R213). -/
abbrev markerLow : Nat := 2
/-- The bytes the pad contract subtracts in P = BS - L - 2, and the least BS of PAD and UNPAD (R211, R213). -/
abbrev markerBytes : Nat := 2

/-- The headroom of the length check (R12, R207). -/
abbrev headroom : Nat := 11

/-- The number of bits UNPAD's mask leaves out of BS bytes (R12, R219). -/
abbrev unpadBits : Nat := 16

/-- FREE VALUE, host's side (log 10): what host software gets from a decryption whose recorded length exceeds the
bytes recovered. R236: "the host must not assume a result in that case". -/
opaque decryptShort : List Byte → Nat → List Byte

/-- FREE VALUE, host's side (log 10): what host software gets from a decryption one of whose commands would fault (n = 0 or
bytelen n < 2), by ciphertext, recorded length, n and d. R236 gives decryption no error path of its own. -/
opaque decryptFaulted : List Byte → Nat → Nat → Nat → List Byte

end Sys2Proof.Config
end

