-- ==== Sys2Proof/Machine/Arith.lean ====
section
/-! DEFINITION. The exact mathematics of the commands (spec/00_scope.md R15 to R21), on naturals and integers, nothing
wrapping (R16). `Laws/Arith.lean` proves of the two procedures that stand for a mathematical value (`modexp`,
`modInverse`) that they have it. -/

namespace Sys2Proof.Machine

/-- `bitlen(v)`: 0 for 0, else the k with 2^(k-1) ≤ v < 2^k (R18). -/
def bitlen (v : Nat) : Nat := if v = 0 then 0 else v.log2 + 1

/-- `bytelen(v) = ceil(bitlen(v) / 8)` (R18). -/
def bytelen (v : Nat) : Nat := (bitlen v + 7) / 8

/-- R136's loop over the exponent's bits `k - 1` down to 0, with the running result `r`. -/
def modexpLoop (b e n : Nat) : Nat → Nat → Nat
  | 0, r => r
  | k + 1, r => modexpLoop b e n k (if e.testBit k then r * r % n * b % n else r * r % n)

/-- `modexp(b, e, n)`, whose value is `(b^e) mod n` (R19, R132): `modexp_eq` in Laws/Arith.lean. It is computed by the
procedure of R136, which is informative (log 9), because `b^e` itself cannot be written out for RSA exponents. -/
def modexp (b e n : Nat) : Nat := modexpLoop b e n (bitlen e) (1 % n)

/-- The state of R190's extended Euclid loop. -/
structure Bezout where
  r0 : Nat
  r1 : Nat
  s0 : Int
  s1 : Int
  t0 : Int
  t1 : Int
deriving DecidableEq, Repr

/-- One turn of R190's loop, made while `r1` is not zero. -/
def bezoutTurn (z : Bezout) : Bezout :=
  let q : Int := (z.r0 / z.r1 : Nat)
  ⟨z.r1, z.r0 % z.r1, z.s1, z.s0 - q * z.s1, z.t1, z.t0 - q * z.t1⟩

/-- R190's loop. The first argument bounds the turns: `r1` falls at each, so `r1 + 1` is enough. -/
def bezoutLoop : Nat → Bezout → Bezout
  | 0, z => z
  | k + 1, z => if z.r1 = 0 then z else bezoutLoop k (bezoutTurn z)

/-- Bézout coefficients of `a` and `m`: `a * s0 + m * t0 = r0 = gcd(a, m)` (R190). Never architectural (R193). -/
def bezout (a m : Nat) : Bezout := bezoutLoop (m + 1) ⟨a, m, 1, 0, 0, 1⟩

/-- The inverse of `a` modulo `m`: the non-negative remainder by `m` of a Bézout coefficient of `a` (R188, R17). For
`gcd(a, m) = 1` it is the one d below m with `(a * d) mod m = 1 mod m`, whatever the procedure (R191). -/
def modInverse (a m : Nat) : Nat := ((bezout a m).s0 % (m : Int)).toNat

/-- What a Miller-Rabin round says (R152). -/
inductive Verdict where
  | pass
  | composite
deriving DecidableEq, Repr

/-- Divide `s` by 2 while it is even, counting in `r`; the first argument bounds the turns. -/
def halveLoop : Nat → Nat → Nat → Nat × Nat
  | 0, r, s => (r, s)
  | k + 1, r, s => if s % 2 = 0 then halveLoop k (r + 1) (s / 2) else (r, s)

/-- `decomp(n) = (r, s)` with `n - 1 = 2^r * s` and `s` odd, for odd n ≥ 3 (R151). -/
def decomp (n : Nat) : Nat × Nat := halveLoop (bitlen (n - 1)) 0 (n - 1)

/-- The squarings of a round: up to `k` of them, each tested against `n - 1` (R152). -/
def squareLoop (n : Nat) : Nat → Nat → Verdict
  | 0, _ => .composite
  | k + 1, x => if x * x % n = n - 1 then .pass else squareLoop n k (x * x % n)

/-- `mr_round(n, a)`, for odd n ≥ 5 and 2 ≤ a ≤ n - 2 (R152). -/
def mrRound (n a : Nat) : Verdict :=
  let x := modexp a (decomp n).2 n
  if x = 1 ∨ x = n - 1 then .pass else squareLoop n ((decomp n).1 - 1) x

/-- P = BS - L - 2, an integer that may be negative (R213). -/
def padOffset (bs v : Nat) : Int := (bs : Int) - (bytelen v : Int) - (Config.markerBytes : Int)

/-- The pad formula (1 << (8P+16)) + (2 << 8P) + v, the terms added, not OR-ed (R213). -/
def padValue (p v : Nat) : Nat :=
  Config.markerHigh * 2 ^ (8 * p + 16) + Config.markerLow * 2 ^ (8 * p) + v

/-- The unpad mask: u AND (2^(8 bs - 16) - 1) (R219). -/
def unpadValue (bs u : Nat) : Nat := u &&& (2 ^ (8 * bs - Config.unpadBits) - 1)

end Sys2Proof.Machine
end

