-- ==== Sys2Proof/Syntax.lean ====
section
/-! DEFINITION. The commands: one constructor for each row of spec/opcode_table.json (spec/30_encoding.md R105),
operands in assembler order (R117), registers as names. There are no immediates (R104). -/

namespace Sys2Proof

/-- A command of the block (R105). -/
inductive Instr where
  /-- MODEXP rd, rs1, rs2, rs3: base, exponent, modulus (R131). -/
  | modexp (rd rs1 rs2 rs3 : Reg)
  /-- MRW rs1, rs2: candidate, witness (R155). -/
  | mrw (rs1 rs2 : Reg)
  /-- MRT rs1: candidate (R163). -/
  | mrt (rs1 : Reg)
  /-- GCD rd, rs1, rs2: the two numbers (R181). -/
  | gcd (rd rs1 rs2 : Reg)
  /-- MODINV rd, rs1, rs2: the number to invert, the modulus (R187). -/
  | modinv (rd rs1 rs2 : Reg)
  /-- PAD rd, rs1: the block (R210). -/
  | pad (rd rs1 : Reg)
  /-- UNPAD rd, rs1: the padded block (R218). -/
  | unpad (rd rs1 : Reg)
  /-- BLKSZ rs1: the modulus (R202). -/
  | blksz (rs1 : Reg)
  /-- LENCHK, no operands (R206). -/
  | lenchk
deriving DecidableEq, Repr

end Sys2Proof
end

