-- ==== Sys2Proof/WellFormed.lean ====
section
/-! DEFINITION. Format C as raw fields (spec/30_encoding.md R101) and the checks that make the fields a command
(R103, R105, R107): a known opcode, bits 31:20 zero, every register field the command does not use zero. They are
written from the table's "fields used" column, apart from the mask and match that Decode.lean reads, so that the two
can be compared. Also the constraint on the parameter W (spec/00_scope.md R10). -/

namespace Sys2Proof

/-- The fields of a format C word, most significant first (R101). -/
@[ext]
structure Fields where
  zero : BitVec 12
  rs3 : BitVec 3
  rs2 : BitVec 3
  rs1 : BitVec 3
  rd : BitVec 3
  opcode : BitVec 8
deriving DecidableEq, Repr

/-- The index of a register, 0 to 7, as a field holds it (R102). -/
def Reg.field : Reg → BitVec 3
  | .x0 => 0#3
  | .x1 => 1#3
  | .x2 => 2#3
  | .x3 => 3#3
  | .x4 => 4#3
  | .x5 => 5#3
  | .x6 => 6#3
  | .x7 => 7#3

/-- Check: the opcode is one of 0x01 to 0x09 (R105, R107). -/
def Fields.opcodeKnown (f : Fields) : Bool :=
  decide (1 ≤ f.opcode.toNat) && decide (f.opcode.toNat ≤ 9)

/-- Check: bits 31:20 are zero (R103). -/
def Fields.zeroClear (f : Fields) : Bool := f.zero == 0#12

/-- The opcodes whose commands use `rd`: MODEXP, GCD, MODINV, PAD, UNPAD (R105). -/
def usesRd (op : BitVec 8) : Bool := [1, 4, 5, 6, 7].contains op.toNat
/-- The opcodes whose commands use `rs1`: all but LENCHK (R105). -/
def usesRs1 (op : BitVec 8) : Bool := [1, 2, 3, 4, 5, 6, 7, 8].contains op.toNat
/-- The opcodes whose commands use `rs2`: MODEXP, MRW, GCD, MODINV (R105). -/
def usesRs2 (op : BitVec 8) : Bool := [1, 2, 4, 5].contains op.toNat
/-- The opcodes whose commands use `rs3`: MODEXP (R105). -/
def usesRs3 (op : BitVec 8) : Bool := [1].contains op.toNat

/-- Check: every register field the command does not use is zero (R103). -/
def Fields.unusedClear (f : Fields) : Bool :=
  (usesRd f.opcode || f.rd == 0#3) && (usesRs1 f.opcode || f.rs1 == 0#3)
    && (usesRs2 f.opcode || f.rs2 == 0#3) && (usesRs3 f.opcode || f.rs3 == 0#3)

/-- Fields that are a command's (R103, R107). -/
def Fields.wellFormed (f : Fields) : Bool := f.opcodeKnown && f.zeroClear && f.unusedClear

/-- The fields of a command, a field it does not use being 0 (R101, R103). -/
def Instr.fields : Instr → Fields
  | .modexp rd rs1 rs2 rs3 => ⟨0, rs3.field, rs2.field, rs1.field, rd.field, 0x01⟩
  | .mrw rs1 rs2 => ⟨0, 0, rs2.field, rs1.field, 0, 0x02⟩
  | .mrt rs1 => ⟨0, 0, 0, rs1.field, 0, 0x03⟩
  | .gcd rd rs1 rs2 => ⟨0, 0, rs2.field, rs1.field, rd.field, 0x04⟩
  | .modinv rd rs1 rs2 => ⟨0, 0, rs2.field, rs1.field, rd.field, 0x05⟩
  | .pad rd rs1 => ⟨0, 0, 0, rs1.field, rd.field, 0x06⟩
  | .unpad rd rs1 => ⟨0, 0, 0, rs1.field, rd.field, 0x07⟩
  | .blksz rs1 => ⟨0, 0, 0, rs1.field, 0, 0x08⟩
  | .lenchk => ⟨0, 0, 0, 0, 0, 0x09⟩

/-- A command is well formed when its fields are. Register names cannot be out of range (R102), so every command is
(`Laws/Encoding.lean`, `wellFormed_all`); the checks bite on raw `Fields`. -/
def Instr.wellFormed (i : Instr) : Bool := i.fields.wellFormed

/-- The constraint on the parameter NLIMB = W / 32: 2 to 65535 (R10). -/
def nlimbOk (nlimb : Nat) : Bool := decide (Config.nlimbMin ≤ nlimb) && decide (nlimb ≤ Config.nlimbMax)

end Sys2Proof
end

