-- ==== Sys2Proof/Decode.lean ====
section
/-! DEFINITION. The opcode map as rows of mask and match (spec/30_encoding.md R105), decoding by it, total on any word
and rejecting by name (R106, R107), and after it the encoder (R101). -/

namespace Sys2Proof

/-- The register a 3-bit field names (R102). -/
def Reg.ofField (b : BitVec 3) : Reg :=
  match b.toNat with
  | 0 => .x0
  | 1 => .x1
  | 2 => .x2
  | 3 => .x3
  | 4 => .x4
  | 5 => .x5
  | 6 => .x6
  | _ => .x7

/-- The fields of a word: opcode 7:0, rd 10:8, rs1 13:11, rs2 16:14, rs3 19:17, zero 31:20 (R101). -/
def fieldsOf (w : Word) : Fields where
  zero := w.extractLsb' 20 12
  rs3 := w.extractLsb' 17 3
  rs2 := w.extractLsb' 14 3
  rs1 := w.extractLsb' 11 3
  rd := w.extractLsb' 8 3
  opcode := w.extractLsb' 0 8

/-- A row of the opcode map (R105); `build` names the command from the fields (R106). -/
structure OpRow where
  mnemonic : String
  mask : Word
  matchBits : Word
  build : Fields → Instr

/-- The complete map, as R105 lists it. -/
def opTable : List OpRow :=
  [ ⟨"MODEXP", 0xFFF000FF, 0x00000001,
      fun f => .modexp (.ofField f.rd) (.ofField f.rs1) (.ofField f.rs2) (.ofField f.rs3)⟩,
    ⟨"MRW", 0xFFFE07FF, 0x00000002, fun f => .mrw (.ofField f.rs1) (.ofField f.rs2)⟩,
    ⟨"MRT", 0xFFFFC7FF, 0x00000003, fun f => .mrt (.ofField f.rs1)⟩,
    ⟨"GCD", 0xFFFE00FF, 0x00000004,
      fun f => .gcd (.ofField f.rd) (.ofField f.rs1) (.ofField f.rs2)⟩,
    ⟨"MODINV", 0xFFFE00FF, 0x00000005,
      fun f => .modinv (.ofField f.rd) (.ofField f.rs1) (.ofField f.rs2)⟩,
    ⟨"PAD", 0xFFFFC0FF, 0x00000006, fun f => .pad (.ofField f.rd) (.ofField f.rs1)⟩,
    ⟨"UNPAD", 0xFFFFC0FF, 0x00000007, fun f => .unpad (.ofField f.rd) (.ofField f.rs1)⟩,
    ⟨"BLKSZ", 0xFFFFC7FF, 0x00000008, fun f => .blksz (.ofField f.rs1)⟩,
    ⟨"LENCHK", 0xFFFFFFFF, 0x00000009, fun _ => .lenchk⟩ ]

/-- The row's test, `(c AND mask) = match` (R105). -/
def OpRow.hits (r : OpRow) (w : Word) : Bool := w &&& r.mask == r.matchBits

/-- Why a word is illegal, in R107's words. All three retire as the one fault ILLEGAL (R261). -/
inductive Illegal where
  /-- Opcode 0x00 or 0x0A to 0xFF. -/
  | opcode
  /-- A non-zero bit in 31:20. -/
  | zeroField
  /-- A non-zero register field the command does not use. -/
  | unusedField
deriving DecidableEq, Repr

/-- The name under which a word that hits no row is rejected (R107). -/
def illegalReason (w : Word) : Illegal :=
  if (fieldsOf w).opcodeKnown = false then .opcode
  else if (fieldsOf w).zeroClear = false then .zeroField
  else .unusedField

/-- Decoding, total (R106): the command of the one row the word hits, or the reason it is illegal (R107). -/
def decode (w : Word) : Except Illegal Instr :=
  match opTable.find? (fun r => r.hits w) with
  | some r => .ok (r.build (fieldsOf w))
  | none => .error (illegalReason w)

/-- The word of given fields, R101's sum written as bits side by side. -/
def assemble (f : Fields) : Word := f.zero ++ f.rs3 ++ f.rs2 ++ f.rs1 ++ f.rd ++ f.opcode

/-- The encoder: the word of a command, a field it does not use being 0 (R101, R103). -/
def encode : Instr → Word
  | .modexp rd rs1 rs2 rs3 => 0#12 ++ rs3.field ++ rs2.field ++ rs1.field ++ rd.field ++ 0x01#8
  | .mrw rs1 rs2 => 0#12 ++ 0#3 ++ rs2.field ++ rs1.field ++ 0#3 ++ 0x02#8
  | .mrt rs1 => 0#12 ++ 0#3 ++ 0#3 ++ rs1.field ++ 0#3 ++ 0x03#8
  | .gcd rd rs1 rs2 => 0#12 ++ 0#3 ++ rs2.field ++ rs1.field ++ rd.field ++ 0x04#8
  | .modinv rd rs1 rs2 => 0#12 ++ 0#3 ++ rs2.field ++ rs1.field ++ rd.field ++ 0x05#8
  | .pad rd rs1 => 0#12 ++ 0#3 ++ 0#3 ++ rs1.field ++ rd.field ++ 0x06#8
  | .unpad rd rs1 => 0#12 ++ 0#3 ++ 0#3 ++ rs1.field ++ rd.field ++ 0x07#8
  | .blksz rs1 => 0#12 ++ 0#3 ++ 0#3 ++ rs1.field ++ 0#3 ++ 0x08#8
  | .lenchk => 0#12 ++ 0#3 ++ 0#3 ++ 0#3 ++ 0#3 ++ 0x09#8

/-- The command `w` stands for when it is a word of `nbits` bits, those above being zero. -/
def decodeTableWord (nbits w : Nat) : Option Instr :=
  match decode (BitVec.ofNat 32 (w % 2 ^ nbits)) with
  | .ok i => some i
  | .error _ => none

end Sys2Proof
end

