-- ==== Sys2Proof/Machine/State.lean ====
section
/-! DEFINITION. The state of the block as plain data (spec/10_state.md), the moves of the agents that act on it
(spec/00_scope.md R9), the reasons a step can stop, and the state after reset (R59). -/

namespace Sys2Proof.Machine

/-- The eight operand registers, each a natural, below 2^W in every state a run reaches (R30). -/
@[ext]
structure OperandRegs where
  x0 : Nat
  x1 : Nat
  x2 : Nat
  x3 : Nat
  x4 : Nat
  x5 : Nat
  x6 : Nat
  x7 : Nat
deriving DecidableEq, Repr

/-- A request to the random source: a value between `lo` and `hi` (R160). -/
structure Request where
  lo : Nat
  hi : Nat
deriving DecidableEq, Repr

/-- One move of an agent (R9). Moves are totally ordered and each takes effect at one instant (R85). -/
inductive Event where
  /-- The host's `MemRead(addr, size)`; `addr` is a byte offset in the window (R71). -/
  | hostRead (addr size : Nat)
  /-- The host's `MemWrite(addr, size, data)` (R71). Only size 4 is performed (R80), so 32 bits of data suffice. -/
  | hostWrite (addr size : Nat) (data : Word)
  /-- The random source answers with this value (R160). -/
  | answer (value : Nat)
  /-- The engine takes its turn: evaluate, then ask or retire (R56, R57). -/
  | engine
  /-- Reset (R300). -/
  | reset
deriving DecidableEq, Repr

/-- What a host transaction answers (R71). -/
inductive Response where
  /-- A write answered OKAY. -/
  | okay
  /-- A read answered OKAY with this word. -/
  | data (word : Word)
  /-- ERROR: the transaction was not performed and changed nothing. -/
  | error
deriving DecidableEq, Repr

/-- The state. `script` and `response` are the model's own fields (log 1, log 3); the rest is the spec's. -/
@[ext]
structure State where
  /-- NLIMB = W / 32: PARAM's field, the parameter W as data, never changed (R10, R52; log 2). -/
  nlimb : Nat
  /-- x0 to x7 (R30). -/
  x : OperandRegs
  /-- CMD: the last accepted command word (R37). -/
  cmd : Word
  /-- STATUS.BUSY (R39). -/
  busy : Bool
  /-- STATUS.DONE (R40). -/
  done : Bool
  /-- STATUS.ERR (R41). -/
  err : Bool
  /-- STATUS.T, the one condition flag (R44). -/
  t : Bool
  /-- STATUS.OVR (R42). -/
  ovr : Bool
  /-- CTRL.IE_DONE (R47). -/
  ieDone : Bool
  /-- CTRL.IE_ERR (R47). -/
  ieErr : Bool
  /-- ERR.CODE (R48). -/
  errCode : BitVec 8
  /-- BS: the block size in bytes (R49). -/
  bs : Word
  /-- MLEN: the message length in bytes (R51). -/
  mlen : Word
  /-- ROUNDS: the number of Miller-Rabin rounds (R50). -/
  rounds : Word
  /-- The answers the command in flight has consumed (R54 a). -/
  draws : List Nat
  /-- The outstanding request to the random source (R54 b). -/
  pending : Option Request
  /-- The agents' coming moves, first to come first (log 1). -/
  script : List Event
  /-- What the step just taken answered on the bus (log 3). -/
  response : Option Response
deriving DecidableEq, Repr

/-- The reasons the machine stops with a fault: none. Every sequence of moves has a behaviour the spec defines (R311);
a command's `Fault(code)` is a next state with the code in ERR (R272), not this. -/
inductive Fault where
deriving DecidableEq, Repr

/-- The reasons an instruction has no meaning in the model. -/
inductive Refusal where
  /-- The instruction is not modelled yet, by its mnemonic. Raised only by an arm of `exec`; safe. No arm raises it. -/
  | notModelled (mnemonic : String)
deriving DecidableEq, Repr

/-- The answer of a step of this machine. -/
abbrev Result := Host.Outcome State Fault Refusal

/-- All operand registers zero (R59). -/
def OperandRegs.zero : OperandRegs := ⟨0, 0, 0, 0, 0, 0, 0, 0⟩

/-- The reset state of a block with the given NLIMB (R59, R301): everything 0 but ROUNDS. -/
def State.resetOf (nlimb : Nat) : State where
  nlimb := nlimb
  x := .zero
  cmd := 0
  busy := false
  done := false
  err := false
  t := false
  ovr := false
  ieDone := false
  ieErr := false
  errCode := 0
  bs := 0
  mlen := 0
  rounds := Config.defaultRounds
  draws := []
  pending := none
  script := []
  response := none

/-- The machine right after reset (R59), for the instance W = 2048 (log 2). -/
def State.reset : State := .resetOf Config.resetNlimb

end Sys2Proof.Machine
end

