-- ==== Sys2Proof/Machine/Flags.lean ====
section
/-! DEFINITION. The flags: how STATUS, CTRL, ERR and PARAM read as words, which bits a STATUS write clears, what each
writer of T computes, and the interrupt output (spec/10_state.md R36 to R58). -/

namespace Sys2Proof.Machine

/-- STATUS as a word: BUSY, DONE, ERR, T, OVR in bits 0 to 4, zeros above (R38, R43). -/
def State.statusWord (s : State) : Word :=
  0#27 ++ BitVec.ofBool s.ovr ++ BitVec.ofBool s.t ++ BitVec.ofBool s.err ++ BitVec.ofBool s.done
    ++ BitVec.ofBool s.busy

/-- CTRL as a word: IE_DONE, IE_ERR in bits 0 and 1, zeros above (R47). -/
def State.ctrlWord (s : State) : Word := 0#30 ++ BitVec.ofBool s.ieErr ++ BitVec.ofBool s.ieDone

/-- ERR as a word: CODE in bits 7:0, zeros above (R48). -/
def State.errWord (s : State) : Word := s.errCode.setWidth 32

/-- PARAM as a word: VERSION 31:24, zeros 23:20, NREG 19:16, NLIMB 15:0 (R52). -/
def State.paramWord (s : State) : Word :=
  Config.version ++ 0#4 ++ BitVec.ofNat 4 Config.nreg ++ BitVec.ofNat 16 s.nlimb

/-- A write-one-to-clear bit: a written 1 clears it, a written 0 leaves it (R36, R38). -/
def writeOneToClear (old written : Bool) : Bool := old && !written

/-- The `irq` output, a pure function of state (R58, R280). -/
def State.irq (s : State) : Bool := (s.done && s.ieDone) || (s.err && s.ieErr)

/-- T of GCD: the truth of gcd = 1 (R182). -/
def gcdFlag (g : Nat) : Bool := g == 1

/-- T of MRW: the round passes (R156). -/
def verdictFlag (v : Verdict) : Bool := v == .pass

end Sys2Proof.Machine
end

