-- ==== Sys2Proof/Machine/Operands.lean ====
section
/-! DEFINITION. Every operand form of the block: an operand register as a whole, one limb of it, a control register, and
the byte offset that names a limb or a control register in the window (spec/10_state.md R30 to R36,
spec/20_memory.md R72 to R76). -/

namespace Sys2Proof

/-- The number of a register, 0 to 7 (R102). -/
def Reg.index : Reg → Nat
  | .x0 => 0
  | .x1 => 1
  | .x2 => 2
  | .x3 => 3
  | .x4 => 4
  | .x5 => 5
  | .x6 => 6
  | .x7 => 7

/-- The register with this number; used on numbers below 8. -/
def Reg.ofIndex : Nat → Reg
  | 0 => .x0
  | 1 => .x1
  | 2 => .x2
  | 3 => .x3
  | 4 => .x4
  | 5 => .x5
  | 6 => .x6
  | _ => .x7

namespace Machine

/-- The value of register `r`. -/
def OperandRegs.get (x : OperandRegs) : Reg → Nat
  | .x0 => x.x0
  | .x1 => x.x1
  | .x2 => x.x2
  | .x3 => x.x3
  | .x4 => x.x4
  | .x5 => x.x5
  | .x6 => x.x6
  | .x7 => x.x7

/-- The registers with `v` in `r`. -/
def OperandRegs.set (x : OperandRegs) (r : Reg) (v : Nat) : OperandRegs :=
  match r with
  | .x0 => { x with x0 := v }
  | .x1 => { x with x1 := v }
  | .x2 => { x with x2 := v }
  | .x3 => { x with x3 := v }
  | .x4 => { x with x4 := v }
  | .x5 => { x with x5 := v }
  | .x6 => { x with x6 := v }
  | .x7 => { x with x7 := v }

/-- `x[r]` (R25). -/
def State.reg (s : State) (r : Reg) : Nat := s.x.get r

/-- `x[r] <- v` (R25). -/
def State.setReg (s : State) (r : Reg) (v : Nat) : State := { s with x := s.x.set r v }

/-- W, the width of an operand register in bits (R10). -/
def State.width (s : State) : Nat := 32 * s.nlimb

/-- BSMAX = W / 8 - 1 (R13). -/
def State.bsMax (s : State) : Nat := s.width / 8 - 1

/-- Limb `j` of a register's value: bits 32j+31 : 32j (R74, R76). -/
def limb (v j : Nat) : Word := BitVec.ofNat 32 (v / 2 ^ (32 * j))

/-- The value with limb `j` replaced by `w`, every other bit kept: R74's formula. -/
def setLimb (v j : Nat) (w : Word) : Nat :=
  v - (limb v j).toNat * 2 ^ (32 * j) + w.toNat * 2 ^ (32 * j)

/-- The control registers, in window order (R36, R73). -/
inductive CtlReg where
  | cmd | status | ctrl | err | bs | mlen | rounds | param
deriving DecidableEq, Repr

/-- The control register at offset 4 * i (R73); used on i below 8. -/
def CtlReg.ofIndex : Nat → CtlReg
  | 0 => .cmd
  | 1 => .status
  | 2 => .ctrl
  | 3 => .err
  | 4 => .bs
  | 5 => .mlen
  | 6 => .rounds
  | _ => .param

/-- The byte offset of a control register (R36). -/
def CtlReg.offset : CtlReg → Nat
  | .cmd => 0x00
  | .status => 0x04
  | .ctrl => 0x08
  | .err => 0x0C
  | .bs => 0x10
  | .mlen => 0x14
  | .rounds => 0x18
  | .param => 0x1C

/-- What an offset of the window names: a control register or a limb of an operand register (R72). -/
inductive Target where
  | ctl (c : CtlReg)
  | limb (r : Reg) (j : Nat)
deriving DecidableEq, Repr

/-- The byte offset of limb `j` of `r`: 0x1000 + k * 4 * NLIMB + 4 * j (R74). -/
def limbOffset (nlimb : Nat) (r : Reg) (j : Nat) : Nat :=
  0x1000 + r.index * 4 * nlimb + 4 * j

/-- What a transaction of `size` bytes at offset `addr` reaches: nothing unless it is an aligned 32-bit access (R80) to
an offset of the map (R72, R75). -/
def resolve (nlimb addr size : Nat) : Option Target :=
  if size ≠ 4 ∨ addr % 4 ≠ 0 then none
  else if addr < 0x20 then some (.ctl (.ofIndex (addr / 4)))
  else if 0x1000 ≤ addr ∧ addr < 0x1000 + 32 * nlimb then
    some (.limb (.ofIndex ((addr - 0x1000) / (4 * nlimb)))
      ((addr - 0x1000) % (4 * nlimb) / 4))
  else none

end Machine
end Sys2Proof
end

