-- ==== Sys2Proof/Machine/Ops.lean ====
section
/-! DEFINITION. The shared operations of the sequencer (spec/10_state.md R55 to R57): accepting a command, what an
evaluation can answer (spec/00_scope.md R26), retiring it, taking a fault (spec/60_exceptions.md R272) and returning
from one (R277), a dropped write (R82), asking the random source and taking its answer (R56), and reset (R300). -/

namespace Sys2Proof.Machine

/-- The causes of a fault (R260). -/
inductive FaultCode where
  /-- The word matches no row of the opcode map (R261). -/
  | illegal
  /-- The modulus operand is 0 (R262). -/
  | modulus
  /-- An operand or BS is outside the range the command is defined on (R263). -/
  | range
  /-- gcd(a, m) is not 1 (R264). -/
  | notCoprime
  /-- The random source answered outside the requested interval (R265). -/
  | rnd
  /-- MLEN > BS - 11 (R266). -/
  | msgTooLong
deriving DecidableEq, Repr

/-- The value of ERR.CODE for a cause (R260). -/
def FaultCode.code : FaultCode → BitVec 8
  | .illegal => 1
  | .modulus => 2
  | .range => 3
  | .notCoprime => 4
  | .rnd => 5
  | .msgTooLong => 6

/-- The writes of a command that completes: an operand register, BS, T, each at most once (R26, R57). -/
structure Updates where
  dest : Option (Reg × Nat) := none
  bs : Option Word := none
  t : Option Bool := none
deriving DecidableEq, Repr

/-- What evaluating a command answers (R26). -/
inductive Evaluation where
  | complete (u : Updates)
  | fault (c : FaultCode)
  | needDraw (lo hi : Nat)
deriving DecidableEq, Repr

/-- Accept (R55): `CMD <- c; BUSY <- 1; DONE <- 0; draws <- []; pending <- none`, nothing else. -/
def State.accept (s : State) (c : Word) : State :=
  { s with cmd := c, busy := true, done := false, draws := [], pending := none }

/-- A dropped write: only OVR is set (R37, R42, R82). -/
def State.dropWrite (s : State) : State := { s with ovr := true }

/-- The operand registers after a destination write, if there is one. -/
def OperandRegs.write (x : OperandRegs) : Option (Reg × Nat) → OperandRegs
  | none => x
  | some (r, v) => x.set r v

/-- Retire as Complete (R57): every write of the command, BUSY <- 0, DONE <- 1, in one step. -/
def State.complete (s : State) (u : Updates) : State :=
  { s with x := s.x.write u.dest, bs := u.bs.getD s.bs, t := u.t.getD s.t, busy := false, done := true }

/-- Taking a fault, the `Fault(code)` form of retire (R57, R272): BUSY <- 0, STATUS.ERR <- 1, ERR.CODE <- code. -/
def State.takeFault (s : State) (c : FaultCode) : State :=
  { s with busy := false, err := true, errCode := c.code }

/-- The host's write of `w` to STATUS (R38, R41): clears DONE, ERR, OVR where `w` has a 1. With bit 2 it is the return
from a fault (R277): ERR.CODE is cleared in the same write and nothing is restored. -/
def State.writeStatus (s : State) (w : Word) : State :=
  { s with
    done := writeOneToClear s.done (w.getLsbD 1)
    err := writeOneToClear s.err (w.getLsbD 2)
    ovr := writeOneToClear s.ovr (w.getLsbD 4)
    errCode := if w.getLsbD 2 then 0 else s.errCode }

/-- Issue a request to the random source and stay busy (R56, R160). -/
def State.ask (s : State) (lo hi : Nat) : State := { s with pending := some ⟨lo, hi⟩ }

/-- What the engine does with an evaluation: retire, take the fault, or ask (R55 to R57). -/
def State.settle (s : State) : Evaluation → State
  | .complete u => s.complete u
  | .fault c => s.takeFault c
  | .needDraw lo hi => s.ask lo hi

/-- The random source answers `v` (R56): taken, as the W bits of the port, while a request is pending, and ignored
otherwise (R160, R302). DESIGN CHOICE (log 4): hidden state gives a request no identity (R54), so this move is the answer
to the request now pending; a late answer to a request from before a reset, which R302 ignores, is then no move at all. -/
def State.takeAnswer (s : State) (v : Nat) : State :=
  match s.pending with
  | none => s
  | some _ => { s with draws := s.draws ++ [v % 2 ^ s.width], pending := none }

/-- Reset (R300 to R302): the whole state becomes the reset state of the same block, a command in flight included. The
moves still to come are the environment's and stay. -/
def State.resetBlock (s : State) : State := { State.resetOf s.nlimb with script := s.script }

end Sys2Proof.Machine
end

