-- ==== Sys2Proof/Machine/BlockPadding.lean ====
section
/-! DEFINITION. The BLKSZ, LENCHK, PAD and UNPAD commands (spec/43_block_padding.md). -/

namespace Sys2Proof.Machine

/-- The block-size window of PAD and UNPAD: 2 ≤ BS ≤ BSMAX (R211). -/
def State.blockSizeOk (s : State) : Bool :=
  decide (Config.markerBytes ≤ s.bs.toNat) && decide (s.bs.toNat ≤ s.bsMax)

/-- PAD's evaluation (R213): the window, then P ≥ 0, else the pad formula. -/
def evalPad (s : State) (rd rs1 : Reg) : Evaluation :=
  if s.blockSizeOk = false then .fault .range
  else if padOffset s.bs.toNat (s.reg rs1) < 0 then .fault .range
  else .complete { dest := some (rd, padValue (padOffset s.bs.toNat (s.reg rs1)).toNat (s.reg rs1)) }

/-- PAD rd, rs1 (R213). -/
def execPad (rd rs1 : Reg) (s : State) : Result := .next (s.settle (evalPad s rd rs1))

/-- UNPAD's evaluation (R219): the window, else the mask. The marker is not looked for (R220). -/
def evalUnpad (s : State) (rd rs1 : Reg) : Evaluation :=
  if s.blockSizeOk = false then .fault .range
  else .complete { dest := some (rd, unpadValue s.bs.toNat (s.reg rs1)) }

/-- UNPAD rd, rs1 (R219). -/
def execUnpad (rd rs1 : Reg) (s : State) : Result := .next (s.settle (evalUnpad s rd rs1))

/-- BLKSZ's evaluation (R203): BS <- bytelen(n). -/
def evalBlksz (s : State) (rs1 : Reg) : Evaluation :=
  .complete { bs := some (BitVec.ofNat 32 (bytelen (s.reg rs1))) }

/-- BLKSZ rs1 (R203). -/
def execBlksz (rs1 : Reg) (s : State) : Result := .next (s.settle (evalBlksz s rs1))

/-- LENCHK's evaluation (R207): MSG_TOO_LONG when MLEN > BS - 11 over the integers, else nothing is written. -/
def evalLenchk (s : State) : Evaluation :=
  if (s.mlen.toNat : Int) > (s.bs.toNat : Int) - (Config.headroom : Int) then .fault .msgTooLong
  else .complete {}

/-- LENCHK (R207). -/
def execLenchk (s : State) : Result := .next (s.settle (evalLenchk s))

end Sys2Proof.Machine
end

