-- ==== Sys2Proof/Machine/GcdInverse.lean ====
section
/-! DEFINITION. The GCD and MODINV commands (spec/42_gcd_inverse.md). -/

namespace Sys2Proof.Machine

/-- GCD's evaluation (R182): x[rd] <- gcd(a, b), T <- (gcd = 1). It cannot fault (R183). -/
def evalGcd (s : State) (rd rs1 rs2 : Reg) : Evaluation :=
  .complete
    { dest := some (rd, Nat.gcd (s.reg rs1) (s.reg rs2))
      t := some (gcdFlag (Nat.gcd (s.reg rs1) (s.reg rs2))) }

/-- GCD rd, rs1, rs2 (R182). -/
def execGcd (rd rs1 rs2 : Reg) (s : State) : Result := .next (s.settle (evalGcd s rd rs1 rs2))

/-- MODINV's evaluation (R188): MODULUS for m = 0, then NOT_COPRIME, else the inverse; the checks in R189's order. -/
def evalModinv (s : State) (rd rs1 rs2 : Reg) : Evaluation :=
  if s.reg rs2 = 0 then .fault .modulus
  else if Nat.gcd (s.reg rs1) (s.reg rs2) ≠ 1 then .fault .notCoprime
  else .complete { dest := some (rd, modInverse (s.reg rs1) (s.reg rs2)) }

/-- MODINV rd, rs1, rs2 (R188). -/
def execModinv (rd rs1 rs2 : Reg) (s : State) : Result := .next (s.settle (evalModinv s rd rs1 rs2))

end Sys2Proof.Machine
end

