-- ==== Sys2Proof/Machine/MillerRabin.lean ====
section
/-! DEFINITION. The MRW and MRT commands (spec/41_miller_rabin.md). -/

namespace Sys2Proof.Machine

/-- The candidates a round is defined for: odd and at least 5 (R152, R157). -/
def candidateOk (n : Nat) : Bool := decide (5 ≤ n) && decide (n % 2 = 1)

/-- The witnesses of a round: 2 ≤ a ≤ n - 2 (R152). -/
def witnessOk (n a : Nat) : Bool := decide (2 ≤ a) && decide (a ≤ n - 2)

/-- MRW's evaluation (R156): the candidate's check, the witness's check, then one round. -/
def evalMrw (s : State) (rs1 rs2 : Reg) : Evaluation :=
  if candidateOk (s.reg rs1) = false then .fault .range
  else if witnessOk (s.reg rs1) (s.reg rs2) = false then .fault .range
  else .complete { t := some (verdictFlag (mrRound (s.reg rs1) (s.reg rs2))) }

/-- MRW rs1, rs2 (R156). -/
def execMrw (rs1 rs2 : Reg) (s : State) : Result := .next (s.settle (evalMrw s rs1 rs2))

/-- The rounds of MRT on a candidate (R164): `k` rounds left, the answers not yet used in order. Out of answers, the
evaluation needs a draw between 2 and n - 2. -/
def mrtRounds (n : Nat) : Nat → List Nat → Evaluation
  | 0, _ => .complete { t := some true }
  | _ + 1, [] => .needDraw 2 (n - 2)
  | k + 1, a :: rest =>
    if witnessOk n a = false then .fault .rnd
    else if mrRound n a = .composite then .complete { t := some false }
    else mrtRounds n k rest

/-- The whole probable-prime test of `n` with `k` rounds and these answers (R164): the small and even cases (R154), then
the rounds. -/
def mrtTest (n k : Nat) (draws : List Nat) : Evaluation :=
  if n ≤ 1 then .complete { t := some false }
  else if n = 2 ∨ n = 3 then .complete { t := some true }
  else if n % 2 = 0 then .complete { t := some false }
  else mrtRounds n k draws

/-- MRT's evaluation (R164) with the answers so far. -/
def evalMrt (s : State) (rs1 : Reg) : Evaluation := mrtTest (s.reg rs1) s.rounds.toNat s.draws

/-- MRT rs1 (R164). When the evaluation needs a draw the request becomes pending and the block stays busy (R56). -/
def execMrt (rs1 : Reg) (s : State) : Result := .next (s.settle (evalMrt s rs1))

end Sys2Proof.Machine
end

