-- ==== Sys2Proof/Machine/ModExp.lean ====
section
/-! DEFINITION. The MODEXP command (spec/40_modexp.md). -/

namespace Sys2Proof.Machine

/-- MODEXP's evaluation (R132): a zero modulus raises MODULUS, else x[rd] <- (b^e) mod n. -/
def evalModexp (s : State) (rd rs1 rs2 rs3 : Reg) : Evaluation :=
  if s.reg rs3 = 0 then .fault .modulus
  else .complete { dest := some (rd, modexp (s.reg rs1) (s.reg rs2) (s.reg rs3)) }

/-- MODEXP rd, rs1, rs2, rs3 (R132). -/
def execModexp (rd rs1 rs2 rs3 : Reg) (s : State) : Result :=
  .next (s.settle (evalModexp s rd rs1 rs2 rs3))

end Sys2Proof.Machine
end

