-- ==== Sys2Proof/Machine/Dispatch.lean ====
section
/-! DEFINITION. One arm per command: the engine's evaluation of it in a state, and what that does (R56, R57). -/

namespace Sys2Proof.Machine

def exec (i : Instr) (s : State) : Host.Outcome State Fault Refusal :=
  match i with
  | .modexp rd rs1 rs2 rs3 => Sys2Proof.Machine.execModexp rd rs1 rs2 rs3 s
  | .mrw rs1 rs2 => Sys2Proof.Machine.execMrw rs1 rs2 s
  | .mrt rs1 => Sys2Proof.Machine.execMrt rs1 s
  | .gcd rd rs1 rs2 => Sys2Proof.Machine.execGcd rd rs1 rs2 s
  | .modinv rd rs1 rs2 => Sys2Proof.Machine.execModinv rd rs1 rs2 s
  | .pad rd rs1 => Sys2Proof.Machine.execPad rd rs1 s
  | .unpad rd rs1 => Sys2Proof.Machine.execUnpad rd rs1 s
  | .blksz rs1 => Sys2Proof.Machine.execBlksz rs1 s
  | .lenchk => Sys2Proof.Machine.execLenchk s

end Sys2Proof.Machine
end

