-- ==== Sys2Proof/Machine/Window.lean ====
section
/-! DEFINITION. The host's transactions on the register window (spec/20_memory.md R71 to R83, spec/10_state.md R37 to
R52). A transaction that reaches nothing answers ERROR and changes nothing (R71, R75, R80). -/

namespace Sys2Proof.Machine

/-- What a read of a target returns; no read has a side effect (R83). -/
def State.load (s : State) : Target → Word
  | .ctl .cmd => s.cmd
  | .ctl .status => s.statusWord
  | .ctl .ctrl => s.ctrlWord
  | .ctl .err => s.errWord
  | .ctl .bs => s.bs
  | .ctl .mlen => s.mlen
  | .ctl .rounds => s.rounds
  | .ctl .param => s.paramWord
  | .limb r j => limb (s.reg r) j

/-- A host write of `w` to CMD: accepted when BUSY = 0 and ERR = 0, else dropped (R37). -/
def State.writeCmd (s : State) (w : Word) : State :=
  if s.busy = true ∨ s.err = true then s.dropWrite else s.accept w

/-- A host write of `w` to CTRL, always performed; bits 31:2 ignored (R47). -/
def State.writeCtrl (s : State) (w : Word) : State :=
  { s with ieDone := w.getLsbD 0, ieErr := w.getLsbD 1 }

/-- A write that the busy rule drops: performed as `f` while idle, dropped while busy (R82). -/
def State.whenIdle (s : State) (f : State → State) : State :=
  if s.busy = true then s.dropWrite else f s

/-- A host write of `w` to a target (R82 and the register's own rule). -/
def State.store (s : State) (w : Word) : Target → State
  | .ctl .cmd => s.writeCmd w
  | .ctl .status => s.writeStatus w
  | .ctl .ctrl => s.writeCtrl w
  | .ctl .err => s
  | .ctl .bs => s.whenIdle fun s => { s with bs := w }
  | .ctl .mlen => s.whenIdle fun s => { s with mlen := w }
  | .ctl .rounds => s.whenIdle fun s => { s with rounds := w }
  | .ctl .param => s
  | .limb r j => s.whenIdle fun s => s.setReg r (setLimb (s.reg r) j w)

/-- The bus answers (R71). -/
def State.respond (s : State) (a : Response) : State := { s with response := some a }

/-- `MemRead(addr, size)` (R71). -/
def State.hostRead (s : State) (addr size : Nat) : State :=
  match resolve s.nlimb addr size with
  | none => s.respond .error
  | some g => s.respond (.data (s.load g))

/-- `MemWrite(addr, size, w)` (R71). A dropped write still answers OKAY (R82). -/
def State.hostWrite (s : State) (addr size : Nat) (w : Word) : State :=
  match resolve s.nlimb addr size with
  | none => s.respond .error
  | some g => (s.store w g).respond .okay

end Sys2Proof.Machine
end

