-- ==== Sys2Proof/Machine/Engine.lean ====
section
/-! DEFINITION. The engine's turn and the effect of each agent's move (spec/10_state.md R55 to R57, spec/00_scope.md
R9). -/

namespace Sys2Proof.Machine

/-- The engine has a step to take: a command is in flight and no request is outstanding (R56). -/
def State.engineReady (s : State) : Bool := s.busy && s.pending.isNone

/-- The command in CMD is decoded after acceptance (R106): evaluated, or retired as ILLEGAL (R107, R261). -/
def runCommand (s : State) : Result :=
  match decode s.cmd with
  | .ok i => exec i s
  | .error _ => .next (s.takeFault .illegal)

/-- The engine's turn. Idle, or waiting for the random source, it has no enabled step and nothing changes (R56, R289,
R319). -/
def engineTurn (s : State) : Result := if s.engineReady then runCommand s else .next s

/-- The effect of one move (R9, R85). -/
def occur (e : Event) (s : State) : Result :=
  match e with
  | .hostRead addr size => .next (s.hostRead addr size)
  | .hostWrite addr size w => .next (s.hostWrite addr size w)
  | .answer v => .next (s.takeAnswer v)
  | .engine => engineTurn s
  | .reset => .next s.resetBlock

/-- The state once its first coming move is taken off the list, the bus's last answer gone. -/
def State.advance (s : State) (rest : List Event) : State := { s with script := rest, response := none }

end Sys2Proof.Machine
end

