-- ==== Sys2Proof/Machine/Step.lean ====
section
/-! DEFINITION. One step: the next move of the script takes effect, at one instant and as a whole (spec/20_memory.md
R85). With no move left to come, the engine goes on by itself (spec/70_reset_and_hazards.md R326; log 1). -/

namespace Sys2Proof.Machine

/-- One step of the machine. -/
def step (s : State) : Host.Outcome State Fault Refusal :=
  match s.script with
  | [] => engineTurn (s.advance [])
  | e :: rest => occur e (s.advance rest)

/-- `s` with the command word `w` just accepted, and the engine's turn next: the block fetches nothing (R35), the command
it runs is the word in CMD (log 6). -/
def State.withFetchWord (s : State) (nbits w : Nat) : State :=
  { s.accept (BitVec.ofNat 32 (w % 2 ^ nbits)) with script := .engine :: s.script }

end Sys2Proof.Machine
end

