-- ==== Sys2Proof/Machine/HostLines.lean ====
section
/-! DEFINITION. The written form of a host's program (spec/30_encoding.md R119, R120): each host line is one transaction,
each pseudo-line of fixed length the sequence it stands for; WAIT, which looks at what it reads, is in
Machine/HostProgram.lean. -/

namespace Sys2Proof.Machine

/-- `WR reg, value` (R119). -/
def lineWr (c : CtlReg) (v : Word) : Event := .hostWrite c.offset 4 v

/-- `RD reg` (R119). -/
def lineRd (c : CtlReg) : Event := .hostRead c.offset 4

/-- `WRL xk, j, value` (R119). -/
def lineWrl (nlimb : Nat) (r : Reg) (j : Nat) (v : Word) : Event := .hostWrite (limbOffset nlimb r j) 4 v

/-- `RDL xk, j` (R119). -/
def lineRdl (nlimb : Nat) (r : Reg) (j : Nat) : Event := .hostRead (limbOffset nlimb r j) 4

/-- A bare command line: WR CMD of its word (R119). -/
def lineCmd (i : Instr) : Event := lineWr .cmd (encode i)

/-- `LDX xk, v`: every limb of `v` from limb 0 up, for v < 2^W (R120). The lines write no bit of `v` above W, and `loadReg`
writes them for no larger `v` (log 20). -/
def lineLdx (nlimb : Nat) (r : Reg) (v : Nat) : List Event :=
  (List.range nlimb).map fun j => lineWrl nlimb r j (limb v j)

/-- `STX xk`: a read of every limb from limb 0 up (R120). -/
def lineStx (nlimb : Nat) (r : Reg) : List Event := (List.range nlimb).map fun j => lineRdl nlimb r j

/-- The value the words of an STX stand for: the sum of limb_j * 2^(32j) (R76, R120). -/
def stxValue : List Word → Nat
  | [] => 0
  | w :: rest => w.toNat + 2 ^ 32 * stxValue rest

/-- `ACK`: WR STATUS, 0x16, clearing DONE, ERR and OVR (R120). -/
def lineAck : Event := lineWr .status 0x00000016

/-- `ANSWER v`: the random source's move, not a host line (R120). -/
def lineAnswer (v : Nat) : Event := .answer v

end Sys2Proof.Machine
end

