-- ==== Sys2Proof/Machine/HostSequences.lean ====
section
/-! DEFINITION. The host software around the block (spec/44_host_sequences.md), as pure functions over the commands'
arithmetic: byte strings, splitting, encryption, decryption, prime generation, key derivation. They bind the host, not
the block (R230); what the host samples is an argument (log 15). Machine/HostProgram.lean has the same run on the block. -/

namespace Sys2Proof.Machine

/-- `from_be`: the first byte is the most significant (R22). -/
def fromBe (s : List Byte) : Nat := s.foldl (fun v b => v * 256 + b.toNat) 0

/-- `be_bytes(v, k)`, used where v < 256^k (R22). -/
def beBytes (v : Nat) : Nat → List Byte
  | 0 => []
  | k + 1 => beBytes (v / 256) k ++ [BitVec.ofNat 8 v]

/-- Consecutive chunks of `bs` bytes, the last one maybe shorter; the first argument bounds the chunks (R231). -/
def chunks (bs : Nat) : Nat → List Byte → List (List Byte)
  | 0, _ => []
  | k + 1, data => if data.isEmpty then [] else data.take bs :: chunks bs k (data.drop bs)

/-- `split_blocks(data, bs)` for bs ≥ 1: each chunk as a big-endian natural (R231). -/
def splitBlocks (data : List Byte) (bs : Nat) : List Nat := (chunks bs data.length data).map fromBe

/-- `pad(v, bs)`, PAD's formula (R213), used where P ≥ 0. -/
def padBlock (v bs : Nat) : Nat := padValue (padOffset bs v).toNat v

/-- `encrypt(message, (n, e))` (R233): `none` is MessageTooLong; else the ciphertext and the message's length. -/
def encrypt (message : List Byte) (n e : Nat) : Option (List Byte × Nat) :=
  if (message.length : Int) > (bytelen n : Int) - (Config.headroom : Int) then none
  else
    some
      ((splitBlocks message (bytelen n)).flatMap fun v => beBytes (modexp (padBlock v (bytelen n)) e n) (bytelen n),
        message.length)

/-- The bytes a decryption recovers before truncation (R236). -/
def decryptBytes (ciphertext : List Byte) (n d : Nat) : List Byte :=
  (splitBlocks ciphertext (bytelen n)).flatMap fun c =>
    beBytes (unpadValue (bytelen n) (modexp c d n)) (bytelen n - 1)

/-- `decrypt((ciphertext, original_length), (n, d))` (R236): the last `len` bytes recovered. R236 states no result where
`len` is more than there are, nor, having no error path of its own, where a block's MODEXP or UNPAD would fault (n = 0 or
bytelen n < 2: R133, R220): a free value in each case (DESIGN CHOICE, log 10). A ciphertext of no block runs neither. -/
def decrypt (ciphertext : List Byte) (len n d : Nat) : List Byte :=
  let out := decryptBytes ciphertext n d
  if bytelen n < 2 ∧ ciphertext.isEmpty = false then Config.decryptFaulted ciphertext len n d
  else if len ≤ out.length then out.drop (out.length - len)
  else Config.decryptShort out len

/-- What the host takes the test of a candidate to say with these answers (R164, R240): the truth of T = 1 when MRT
completes; nothing when the answers run out, MRT then never retiring (R319). DESIGN CHOICE (log 19): R240 is silent on a
test that faults RND, and the host counts it as not passed, never as the stale T. -/
def isProbablePrime (c k : Nat) (draws : List Nat) : Option Bool :=
  match mrtTest c k draws with
  | .complete u => some (u.t == some true)
  | .fault _ => some false
  | .needDraw _ _ => none

/-- `generate_prime` over the host's samples, each a candidate with the answers its test draws: the first of exactly
`bits` bits that passes 40 rounds. `none` when the loop does not end on them: the samples run out (R241), or a test waits
for an answer that never comes (R319). After a test that faulted RND the host resamples (DESIGN CHOICE, log 19). -/
def generatePrime (bits : Nat) : List (Nat × List Nat) → Option Nat
  | [] => none
  | (c, draws) :: rest =>
    if bitlen c = bits then
      match isProbablePrime c Config.defaultRounds.toNat draws with
      | some true => some c
      | some false => generatePrime bits rest
      | none => none
    else generatePrime bits rest

/-- The search for e over the host's samples of [2, φ - 1]: the first with gcd(e, φ) = 1 (R243). -/
def findExponent (phi : Nat) : List Nat → Option Nat
  | [] => none
  | e :: rest => if 2 ≤ e ∧ e ≤ phi - 1 ∧ Nat.gcd e phi = 1 then some e else findExponent phi rest

/-- The bit width of each prime for a key size: ceil((key_size + 1) / 2) (R243). -/
def primeBits (keySize : Nat) : Nat := (keySize + 2) / 2

/-- A key pair: the modulus and the two exponents (R27). -/
structure KeyPair where
  n : Nat
  e : Nat
  d : Nat
deriving DecidableEq, Repr

/-- Key derivation from two primes (R243): n = pq, φ = (p-1)(q-1), e by search, d the inverse of e mod φ. -/
def deriveKeys (p q : Nat) (samples : List Nat) : Option KeyPair :=
  let phi := (p - 1) * (q - 1)
  match findExponent phi samples with
  | none => none
  | some e => some ⟨p * q, e, modInverse e phi⟩

/-- `generate_keys(key_size)` over the host's samples (R243): two primes, then the derivation. -/
def generateKeys (keySize : Nat) (ps qs : List (Nat × List Nat)) (es : List Nat) : Option KeyPair :=
  match generatePrime (primeBits keySize) ps, generatePrime (primeBits keySize) qs with
  | some p, some q => deriveKeys p q es
  | _, _ => none

end Sys2Proof.Machine
end

