-- ==== Sys2Proof/Machine/HostProgram.lean ====
section
/-! DEFINITION. A host that looks at what it reads: WAIT (spec/30_encoding.md R120), a command with its WAIT and its check of
STATUS.ERR (spec/44_host_sequences.md R234), and the host sequences R234, R237, R240 and R243 run on the block. The other
agents' moves come between the host's reads of a WAIT, where they are an argument (log 15). -/

namespace Sys2Proof.Machine

/-- The state after these moves, one step each. A machine that stopped would stay; none does. -/
def play : List Event → State → State
  | [], s => s
  | e :: rest, s =>
    match step { s with script := [e] } with
    | .next s' => play rest s'
    | .fault _ => s
    | .refused _ => s

/-- What the other agents do before each read of STATUS of one WAIT. -/
abbrev Polls := List (List Event)

/-- `WAIT` (R120): read STATUS until bit 0 of the word read is 0; the last word read is the result. `none` when the polls
run out with every word read busy: the WAIT has not ended (R319). -/
def waitFor : Polls → State → Option (State × Word)
  | [], _ => none
  | others :: more, s =>
    let s' := play (others ++ [lineRd .status]) s
    match s'.response with
    | some (.data w) => if w.getLsbD 0 = true then waitFor more s' else some (s', w)
    | _ => none

/-- Why a host sequence ends early. -/
inductive HostStop where
  /-- A WAIT has not ended within its polls. -/
  | waiting
  /-- The check of STATUS.ERR found a fault; this is ERR.CODE (R234). Code 6 of LENCHK is MessageTooLong. -/
  | fault (code : Word)
  /-- A read was answered without a word. -/
  | bus
  /-- A number does not fit where the sequence writes it: 2^W or more for LDX (R10, R120), 2^32 or more for MLEN (R51). The
  spec is silent on what the host does then; that it stops is the model's choice (log 20). -/
  | tooLarge
deriving DecidableEq, Repr

/-- A host sequence's answer: where it ended early, or the state together with what it computed. -/
abbrev HostResult (α : Type) := Except HostStop α

/-- A read and its word. -/
def readWord (e : Event) (s : State) : HostResult (State × Word) :=
  match (play [e] s).response with
  | some (.data w) => .ok (play [e] s, w)
  | _ => .error .bus

/-- Reads one after another, and their words. -/
def readWords : List Event → State → HostResult (State × List Word)
  | [], s => .ok (s, [])
  | e :: rest, s => do
    let (s, w) ← readWord e s
    let (s, ws) ← readWords rest s
    return (s, w :: ws)

/-- `LDX xk, v` on the block (R120), defined for v < 2^W. DESIGN CHOICE (log 20): the host stops at a larger number, such as
a candidate or a φ too wide for the block, and writes nothing of it. -/
def loadReg (r : Reg) (v : Nat) (s : State) : HostResult State :=
  if v < 2 ^ s.width then .ok (play (lineLdx s.nlimb r v) s) else .error .tooLarge

/-- `WR MLEN, len` on the block (R234), MLEN being a 32-bit natural (R51). DESIGN CHOICE (log 20): the host stops at a message
of 2^32 bytes or more and writes nothing; `encrypt` says MessageTooLong of it for every n that fits a register. -/
def writeLength (len : Nat) (s : State) : HostResult State :=
  if len < 2 ^ 32 then .ok (play [lineWr .mlen (BitVec.ofNat 32 len)] s) else .error .tooLarge

/-- `STX xk` on the block: the value the words read stand for (R120). -/
def storeReg (r : Reg) (s : State) : HostResult (State × Nat) := do
  let (s, ws) ← readWords (lineStx s.nlimb r) s
  return (s, stxValue ws)

/-- A command line and its WAIT: the last word read. -/
def issue (i : Instr) (polls : Polls) (s : State) : HostResult (State × Word) :=
  match waitFor polls (play [lineCmd i] s) with
  | none => .error .waiting
  | some r => .ok r

/-- A command, its WAIT and the check of STATUS.ERR in the word the WAIT ended on (R234): the host stops on a fault, with
the code it reads from ERR. -/
def command (i : Instr) (polls : Polls) (s : State) : HostResult (State × Word) := do
  let (s, w) ← issue i polls s
  if w.getLsbD 2 = true then
    let (_, code) ← readWord (lineRd .err) s
    throw (.fault code)
  else return (s, w)

/-- `encrypt` on the block, `n` in x3 and `e` in x2 (R234): the ciphertext and the message's length. `polls k` is the WAIT
of the k-th command. -/
def encryptOnBlock (polls : Nat → Polls) (message : List Byte) (n : Nat) (s : State) :
    HostResult (State × List Byte × Nat) := do
  let (s, _) ← command (.blksz .x3) (polls 0) s
  let s ← writeLength message.length s
  let (s, _) ← command .lenchk (polls 1) s
  if message.isEmpty then return (s, [], message.length)
  else
    let s ← loadReg .x1 (fromBe message) s
    let (s, _) ← command (.pad .x4 .x1) (polls 2) s
    let (s, _) ← command (.modexp .x5 .x4 .x2 .x3) (polls 3) s
    let (s, c) ← storeReg .x5 s
    return (s, beBytes c (bytelen n), message.length)

/-- The bytes recovered from these ciphertext blocks on the block, `bs` the block size, the first command of the first one
being the k-th of the sequence (R237). -/
def decryptBlocks (polls : Nat → Polls) (bs : Nat) : Nat → List Nat → State → HostResult (State × List Byte)
  | _, [], s => .ok (s, [])
  | k, c :: rest, s => do
    let s ← loadReg .x5 c s
    let (s, _) ← command (.modexp .x4 .x5 .x6 .x3) (polls k) s
    let (s, _) ← command (.unpad .x7 .x4) (polls (k + 1)) s
    let (s, u) ← storeReg .x7 s
    let (s, out) ← decryptBlocks polls bs (k + 2) rest s
    return (s, beBytes u (bs - 1) ++ out)

/-- `decrypt` on the block, `n` in x3 and `d` in x6 (R237), cut to the last `len` bytes as R236 says. DESIGN CHOICE (log
19): the host checks STATUS.ERR after each command, as R234 says of encryption; R237 names the faults and not the check. -/
def decryptOnBlock (polls : Nat → Polls) (ciphertext : List Byte) (len n : Nat) (s : State) :
    HostResult (State × List Byte) := do
  let (s, _) ← command (.blksz .x3) (polls 0) s
  let (s, out) ← decryptBlocks polls (bytelen n) 1 (splitBlocks ciphertext (bytelen n)) s
  return (s, if len ≤ out.length then out.drop (out.length - len) else Config.decryptShort out len)

/-- One trial of prime generation on the block (R240): the truth of T = 1 in the word the WAIT ended on. DESIGN CHOICE (log
19): R240 is silent on a test that faulted; the host acknowledges the fault and counts the test as not passed. -/
def primeTrial (polls : Polls) (c : Nat) (s : State) : HostResult (State × Bool) := do
  let s ← loadReg .x1 c s
  let (s, w) ← issue (.mrt .x1) polls (play [lineWr .rounds Config.defaultRounds] s)
  if w.getLsbD 2 = true then return (play [lineAck] s, false) else return (s, w.getLsbD 3)

/-- `generate_prime` on the block over the host's samples of `bits` bits, each with the moves of its WAIT (R240): `none`
when the samples run out (R241). -/
def generatePrimeOnBlock (bits : Nat) : List (Nat × Polls) → State → HostResult (State × Option Nat)
  | [], s => .ok (s, none)
  | (c, polls) :: rest, s =>
    if bitlen c = bits then do
      let (s, prime) ← primeTrial polls c s
      if prime then return (s, some c) else generatePrimeOnBlock bits rest s
    else generatePrimeOnBlock bits rest s

/-- The search for e on the block, φ in x2, over the host's samples of [2, φ - 1] (R243): `none` when they run out. -/
def findExponentOnBlock (phi : Nat) : List (Nat × Polls) → State → HostResult (State × Option Nat)
  | [], s => .ok (s, none)
  | (e, polls) :: rest, s =>
    if 2 ≤ e ∧ e ≤ phi - 1 then do
      let s ← loadReg .x1 e s
      let (s, w) ← command (.gcd .x0 .x1 .x2) polls s
      if w.getLsbD 3 = true then return (s, some e) else findExponentOnBlock phi rest s
    else findExponentOnBlock phi rest s

/-- Key derivation from two primes on the block (R243): the host multiplies, e stays in x1 and d is x3. -/
def deriveKeysOnBlock (p q : Nat) (samples : List (Nat × Polls)) (last : Polls) (s : State) :
    HostResult (State × Option KeyPair) := do
  let phi := (p - 1) * (q - 1)
  let s ← loadReg .x2 phi s
  let (s, found) ← findExponentOnBlock phi samples s
  match found with
  | none => return (s, none)
  | some e =>
    let (s, _) ← command (.modinv .x3 .x1 .x2) last s
    let (s, d) ← storeReg .x3 s
    return (s, some ⟨p * q, e, d⟩)

/-- `generate_keys(key_size)` on the block (R243): two runs of R240 at the width R243 gives, one after the other, then the
derivation. `none` when the samples of one of its loops run out. -/
def generateKeysOnBlock (keySize : Nat) (ps qs es : List (Nat × Polls)) (last : Polls) (s : State) :
    HostResult (State × Option KeyPair) := do
  let (s, p) ← generatePrimeOnBlock (primeBits keySize) ps s
  match p with
  | none => return (s, none)
  | some p =>
    let (s, q) ← generatePrimeOnBlock (primeBits keySize) qs s
    match q with
    | none => return (s, none)
    | some q => deriveKeysOnBlock p q es last s

end Sys2Proof.Machine
end

