-- ==== Sys2Proof/Safety.lean ====
section
/-! DEFINITION. The terms claims are stated in: the legal states (the invariant every step keeps), what a retire
leaves unchanged, whose move is next, and a safe run. spec/60_exceptions.md R279: "no fault recorded" is about
a moment, so a run without a fault is stated over its steps. -/

namespace Sys2Proof.Machine

/-- Every operand register fits W bits (R23, R30), and so does every recorded answer (R160). -/
structure State.Fits (s : State) : Prop where
  nlimb : nlimbOk s.nlimb = true
  regs : ∀ r : Reg, s.reg r < 2 ^ s.width
  draws : ∀ v ∈ s.draws, v < 2 ^ s.width

/-- The flags agree with each other: CODE = 0 exactly when ERR = 0, the code one of 0 to 6 (R48, R260); while BUSY neither
DONE nor ERR is set (R40, R55, R278); DONE and ERR exclude each other (R40). -/
structure State.FlagsAgree (s : State) : Prop where
  code : s.errCode = 0#8 ↔ s.err = false
  codeRange : s.errCode.toNat ≤ 6
  busy : s.busy = true → s.done = false ∧ s.err = false
  done : s.done = true → s.err = false

/-- The random-source port agrees with the command in flight (R54, R56, R166). -/
structure State.PortAgrees (s : State) : Prop where
  /-- A request is outstanding only while BUSY with an MRT whose candidate is odd and at least 5; it asks for [2, n - 2],
  and fewer than ROUNDS answers are in. -/
  request : ∀ q, s.pending = some q →
    s.busy = true ∧ s.draws.length < s.rounds.toNat ∧
      ∃ rs1, decode s.cmd = .ok (.mrt rs1) ∧ 5 ≤ s.reg rs1 ∧ s.reg rs1 % 2 = 1 ∧ q = ⟨2, s.reg rs1 - 2⟩
  /-- A command in flight has consumed at most ROUNDS answers. -/
  count : s.busy = true → s.draws.length ≤ s.rounds.toNat
  /-- No command in flight but MRT has consumed any. -/
  mrtOnly : s.busy = true → s.draws ≠ [] → ∃ rs1, decode s.cmd = .ok (.mrt rs1)

/-- The legal states: what reset establishes and every step keeps. -/
structure State.Legal (s : State) : Prop where
  fits : s.Fits
  flags : s.FlagsAgree
  port : s.PortAgrees

/-- `s'` is `s` after a Complete retire (R57) in everything but the destinations a command may write: the operand
registers, BS and T, of which this says nothing. -/
structure CompletedFrom (s s' : State) : Prop where
  busy : s'.busy = false
  done : s'.done = true
  nlimb : s'.nlimb = s.nlimb
  cmd : s'.cmd = s.cmd
  err : s'.err = s.err
  ovr : s'.ovr = s.ovr
  ieDone : s'.ieDone = s.ieDone
  ieErr : s'.ieErr = s.ieErr
  errCode : s'.errCode = s.errCode
  mlen : s'.mlen = s.mlen
  rounds : s'.rounds = s.rounds
  draws : s'.draws = s.draws
  pending : s'.pending = s.pending
  script : s'.script = s.script
  response : s'.response = s.response

/-- `s'` is `s` after a Fault retire with this code, and differs in nothing else (R57, R272, R273). -/
structure FaultedFrom (s s' : State) (code : BitVec 8) : Prop where
  busy : s'.busy = false
  err : s'.err = true
  errCode : s'.errCode = code
  nlimb : s'.nlimb = s.nlimb
  x : s'.x = s.x
  cmd : s'.cmd = s.cmd
  done : s'.done = s.done
  t : s'.t = s.t
  ovr : s'.ovr = s.ovr
  ieDone : s'.ieDone = s.ieDone
  ieErr : s'.ieErr = s.ieErr
  bs : s'.bs = s.bs
  mlen : s'.mlen = s.mlen
  rounds : s'.rounds = s.rounds
  draws : s'.draws = s.draws
  pending : s'.pending = s.pending
  script : s'.script = s.script
  response : s'.response = s.response

/-- The next move is the engine's, `rest` the moves after it: the script says so, or no move is left to come. -/
def EngineMoves (s : State) (rest : List Event) : Prop :=
  s.script = .engine :: rest ∨ (s.script = [] ∧ rest = [])

/-- What evaluating a command in a state answers (R26). -/
def evaluate (i : Instr) (s : State) : Evaluation :=
  match i with
  | .modexp rd rs1 rs2 rs3 => evalModexp s rd rs1 rs2 rs3
  | .mrw rs1 rs2 => evalMrw s rs1 rs2
  | .mrt rs1 => evalMrt s rs1
  | .gcd rd rs1 rs2 => evalGcd s rd rs1 rs2
  | .modinv rd rs1 rs2 => evalModinv s rd rs1 rs2
  | .pad rd rs1 => evalPad s rd rs1
  | .unpad rd rs1 => evalUnpad s rd rs1
  | .blksz rs1 => evalBlksz s rs1
  | .lenchk => evalLenchk s

/-- `k` steps, one after another. -/
def runFor : Nat → State → Result
  | 0, s => .next s
  | k + 1, s =>
    match step s with
    | .next s' => runFor k s'
    | .fault r => .fault r
    | .refused r => .refused r

/-- The step from `s` records a fault: `ERR` rises (R272, R279). -/
def faultsAt (s : State) : Prop := ∃ s', step s = .next s' ∧ s.err = false ∧ s'.err = true

/-- A run of `k` steps in which no command retires as a fault (R279). -/
def FaultFree : Nat → State → Prop
  | 0, _ => True
  | k + 1, s => ¬faultsAt s ∧ ∀ s', step s = .next s' → FaultFree k s'

end Sys2Proof.Machine
end

