-- ==== Sys2Proof/Certificates/Slice0/Obligations.lean ====
section
/-! DEFINITION. The statements for the provers, from the numbered rules of spec/. Each holds for every NLIMB unless it says
otherwise. `s` is the state before, `s'` the state after. "The rest of the state" is said by a record update of `s`, by
`CompletedFrom` or by `FaultedFrom`, each of which names every field. Which agent moves next is said through the model's
own field `script`, what the bus answered through `response` (logs 1, 3); that an empty script is the engine's turn, the
second case of `EngineMoves`, is the model's choice (log 1). -/

open Sys2Proof Sys2Proof.Machine

/-! ## Encoding -/

/-- R101, R106: decoding the word of a command gives the command, for every register in every field. -/
def Obligations.DecodeOfEncode : Prop :=
  ∀ i : Instr, i.wellFormed = true → decode (encode i) = .ok i

/-- R105, R106: a word that decodes is the word of the command it decodes to, so no bit of it is dropped. -/
def Obligations.EncodeOfDecode : Prop :=
  ∀ (w : Word) (i : Instr), decode w = .ok i → encode i = w

/-- R103, R105, R107: the mask-and-match rows accept exactly the words whose opcode is known, whose bits 31:20 are 0 and
whose unused register fields are 0; every other word is illegal. -/
def Obligations.WordDecodesIffFieldsWellFormed : Prop :=
  ∀ w : Word, (∃ i, decode w = .ok i) ↔ (fieldsOf w).wellFormed = true

/-- R109: the example words, legal and illegal. -/
def Obligations.ExampleWordsDecode : Prop :=
  decode 0x00068C01 = .ok (.modexp .x4 .x1 .x2 .x3) ∧ decode 0x00024901 = .ok (.modexp .x1 .x1 .x1 .x1) ∧
    decode 0x00000001 = .ok (.modexp .x0 .x0 .x0 .x0) ∧ decode 0x000FFF01 = .ok (.modexp .x7 .x7 .x7 .x7) ∧
    decode 0x00008802 = .ok (.mrw .x1 .x2) ∧ decode 0x00000803 = .ok (.mrt .x1) ∧
    decode 0x00008804 = .ok (.gcd .x0 .x1 .x2) ∧ decode 0x00008B05 = .ok (.modinv .x3 .x1 .x2) ∧
    decode 0x00000A06 = .ok (.pad .x2 .x1) ∧ decode 0x00002E07 = .ok (.unpad .x6 .x5) ∧
    decode 0x00001808 = .ok (.blksz .x3) ∧ decode 0x00000009 = .ok .lenchk ∧
    decode 0x00000000 = .error .opcode ∧ decode 0x0000000A = .error .opcode ∧
    decode 0x00100001 = .error .zeroField ∧ decode 0x00000109 = .error .unusedField ∧
    decode 0x00020803 = .error .unusedField

/-! ## The step, reset, and the legal states -/

/-- R55, R56, R106: while a command is in flight, no request outstanding and the engine's move next, a step is the
execution of the command that the word in CMD decodes to. -/
def Obligations.StepRunsDecodedCommand : Prop :=
  ∀ (s : State) (rest : List Event) (i : Instr),
    EngineMoves s rest → s.busy = true → s.pending = none → decode s.cmd = .ok i →
      step s = exec i { s with script := rest, response := none }

/-- R107, R261: a word with an unknown opcode, a bit set in 31:20 or an unused field set, once accepted, retires as
ILLEGAL, code 1, and writes nothing else; the word stays in CMD. -/
def Obligations.IllegalWordFaultsWithCode1 : Prop :=
  ∀ (s : State) (rest : List Event),
    EngineMoves s rest → s.busy = true → s.pending = none → (fieldsOf s.cmd).wellFormed = false →
      ∃ s', step s = .next s' ∧ FaultedFrom { s with script := rest, response := none } s' 1#8

/-- R56, R319: idle, or waiting for the random source, the engine's turn changes nothing. -/
def Obligations.EngineWaitsWhenNothingEnabled : Prop :=
  ∀ (s : State) (rest : List Event),
    EngineMoves s rest → (s.busy = false ∨ s.pending ≠ none) →
      step s = .next { s with script := rest, response := none }

/-- Every state and every next move has a behaviour; no step stops the machine. R311 says so of sequences of host
transactions. That an engine turn with nothing enabled is a step too is the model's reading (log 5), and so is that a
command's fault and a bus ERROR are next states (log 18). -/
def Obligations.EveryStepAnswersNext : Prop :=
  ∀ s : State, ∃ s', step s = .next s'

/-- The invariant: a step from a legal state gives a legal state. It holds R23 (no result exceeds a register: a destination
write never truncates), R40 and R48 (DONE, ERR and CODE agree), R54 and R166 (every request is MRT's [2, n - 2], and no
command takes more than ROUNDS answers), R278 (no command runs while ERR is set). -/
def Obligations.StepKeepsLegal : Prop :=
  ∀ s s' : State, s.Legal → step s = .next s' → s'.Legal

/-- Reset gives a legal state, for every NLIMB that R10 allows, and so does `State.reset`, the instance NLIMB = 64 that the
model chose (log 2). -/
def Obligations.ResetStateIsLegal : Prop :=
  (∀ n : Nat, nlimbOk n = true → (State.resetOf n).Legal) ∧ State.reset = State.resetOf 64 ∧ State.reset.Legal

/-- R59: the state after reset, for every NLIMB that fits PARAM's field. -/
def Obligations.ResetStateAsStated : Prop :=
  ∀ n : Nat, n ≤ 65535 →
    (∀ r, (State.resetOf n).reg r = 0) ∧ (State.resetOf n).cmd = 0#32 ∧ (State.resetOf n).busy = false ∧
      (State.resetOf n).done = false ∧ (State.resetOf n).err = false ∧ (State.resetOf n).t = false ∧
      (State.resetOf n).ovr = false ∧ (State.resetOf n).statusWord = 0#32 ∧ (State.resetOf n).ctrlWord = 0#32 ∧
      (State.resetOf n).errWord = 0#32 ∧ (State.resetOf n).bs = 0#32 ∧ (State.resetOf n).mlen = 0#32 ∧
      (State.resetOf n).rounds.toNat = 40 ∧ (State.resetOf n).paramWord.toNat = 2 ^ 24 + 8 * 2 ^ 16 + n ∧
      (State.resetOf n).draws = [] ∧ (State.resetOf n).pending = none ∧ (State.resetOf n).irq = false

/-- R300, R302: a reset, whatever was in flight, leaves the reset state of the same block, and an answer that comes after it
is ignored. The moves to come are the environment's and stay. -/
def Obligations.ResetAbandonsCommandInFlight : Prop :=
  ∀ (s : State) (rest : List Event), s.script = .reset :: rest →
    step s = .next { State.resetOf s.nlimb with script := rest } ∧
      ∀ (v : Nat) (rest' : List Event), rest = .answer v :: rest' →
        step { State.resetOf s.nlimb with script := rest } = .next { State.resetOf s.nlimb with script := rest' }

/-! ## The sequencer -/

/-- R39: BUSY is set only by the acceptance of a command and cleared only by a retire (of the engine, with no request
outstanding, leaving DONE or ERR set) or by reset; it is 0 after reset. -/
def Obligations.BusyChangesOnlyByAcceptRetireReset : Prop :=
  (∀ s s' : State, step s = .next s' →
    (s.busy = false → s'.busy = true →
      ∃ (w : Word) (rest : List Event), s.script = .hostWrite 0 4 w :: rest ∧ s.err = false ∧ s'.cmd = w) ∧
    (s.busy = true → s'.busy = false →
      (∃ rest, s.script = .reset :: rest) ∨
        ∃ rest, EngineMoves s rest ∧ s.pending = none ∧ (s'.done = true ∨ s'.err = true))) ∧
  ∀ n, (State.resetOf n).busy = false

/-- R37, R55: a CMD write of any word while BUSY = 0 and ERR = 0 is accepted at that instant; while BUSY = 1 or ERR = 1 it is
dropped and sets OVR, nothing else; a read of CMD returns the word last accepted, 0 after reset. -/
def Obligations.CmdWriteAcceptedOrDropped : Prop :=
  (∀ (s : State) (c : Word) (rest : List Event), s.script = .hostWrite 0 4 c :: rest →
    (s.busy = false → s.err = false →
      step s = .next { s with
        cmd := c, busy := true, done := false, draws := [], pending := none, script := rest, response := some .okay }) ∧
    (s.busy = true ∨ s.err = true →
      step s = .next { s with ovr := true, script := rest, response := some .okay })) ∧
  (∀ (s : State) (rest : List Event), s.script = .hostRead 0 4 :: rest →
    step s = .next { s with script := rest, response := some (.data s.cmd) }) ∧
  ∀ n, (State.resetOf n).cmd = 0#32

/-- R38, R43: a write to STATUS is always performed, busy or not: a written 1 in bits 1, 2, 4 clears DONE, ERR, OVR (and with
bit 2, ERR.CODE: R41), a written 0 leaves them, the other bits are ignored; a read returns the five bits and zeros above. -/
def Obligations.StatusWriteOneToClear : Prop :=
  (∀ (s : State) (w : Word) (rest : List Event), s.script = .hostWrite 0x04 4 w :: rest →
    step s = .next { s with
      done := s.done && !w.getLsbD 1, err := s.err && !w.getLsbD 2, ovr := s.ovr && !w.getLsbD 4,
      errCode := if w.getLsbD 2 then 0#8 else s.errCode, script := rest, response := some .okay }) ∧
  ∀ (s : State) (rest : List Event), s.script = .hostRead 0x04 4 :: rest →
    ∃ w : Word, step s = .next { s with script := rest, response := some (.data w) } ∧
      w.getLsbD 0 = s.busy ∧ w.getLsbD 1 = s.done ∧ w.getLsbD 2 = s.err ∧ w.getLsbD 3 = s.t ∧ w.getLsbD 4 = s.ovr ∧
      ∀ k, 5 ≤ k → w.getLsbD k = false

/-- R40: DONE rises only when the engine retires a command as Complete, falls only at an acceptance, a STATUS write with bit
1 set, or reset, and a command that retires as a fault leaves it as it was; it is 0 after reset. -/
def Obligations.DoneRisesOnlyAtComplete : Prop :=
  (∀ s s' : State, step s = .next s' →
    (s.done = false → s'.done = true →
      ∃ rest i u, EngineMoves s rest ∧ s.busy = true ∧ s.pending = none ∧ decode s.cmd = .ok i ∧
        evaluate i s = .complete u ∧ s'.busy = false) ∧
    (s.done = true → s'.done = false →
      (∃ w rest, s.script = .hostWrite 0 4 w :: rest ∧ s.busy = false ∧ s.err = false) ∨
        (∃ w rest, s.script = .hostWrite 0x04 4 w :: rest ∧ w.getLsbD 1 = true) ∨ ∃ rest, s.script = .reset :: rest) ∧
    (s.err = false → s'.err = true → s'.done = s.done)) ∧
  ∀ n, (State.resetOf n).done = false

/-- R48, R272, R273: ERR rises only when the engine retires the command in flight as a fault. That writes BUSY, ERR and the
code, one of 1 to 6, and nothing else: no operand register, not BS, not T, not DONE, and the word stays in CMD. -/
def Obligations.FaultsArePrecise : Prop :=
  ∀ s s' : State, step s = .next s' → s.err = false → s'.err = true →
    ∃ rest, EngineMoves s rest ∧ s.busy = true ∧ s.pending = none ∧ 1 ≤ s'.errCode.toNat ∧ s'.errCode.toNat ≤ 6 ∧
      FaultedFrom { s with script := rest, response := none } s' s'.errCode

/-- R277: the return from a fault is a STATUS write with bit 2 set. ERR and CODE are cleared in that step, no register, BS,
T or CMD changes, and the next CMD write is accepted. -/
def Obligations.FaultReturnAllowsNextCommand : Prop :=
  ∀ (s : State) (w c : Word) (rest : List Event),
    s.busy = false → s.err = true → w.getLsbD 2 = true →
      s.script = .hostWrite 0x04 4 w :: .hostWrite 0 4 c :: rest →
        ∃ s' s'', step s = .next s' ∧ s'.err = false ∧ s'.errCode = 0#8 ∧ s'.x = s.x ∧ s'.bs = s.bs ∧ s'.t = s.t ∧
          s'.cmd = s.cmd ∧ s'.mlen = s.mlen ∧ s'.rounds = s.rounds ∧
          step s' = .next s'' ∧ s''.cmd = c ∧ s''.busy = true ∧ s''.x = s.x

/-- R42: OVR rises only by a dropped write: one of CMD, BS, MLEN, ROUNDS or an operand limb while BUSY, or of CMD while ERR.
It falls only by a STATUS write with bit 4 set or by reset. -/
def Obligations.OvrTracksDroppedWrites : Prop :=
  ∀ s s' : State, step s = .next s' →
    (s.ovr = false → s'.ovr = true →
      ∃ a w rest, s.script = .hostWrite a 4 w :: rest ∧
        ((s.busy = true ∧
            (a = 0x00 ∨ a = 0x10 ∨ a = 0x14 ∨ a = 0x18 ∨ (0x1000 ≤ a ∧ a < 0x1000 + 32 * s.nlimb ∧ a % 4 = 0))) ∨
          (s.err = true ∧ a = 0x00))) ∧
    (s.ovr = true → s'.ovr = false →
      (∃ w rest, s.script = .hostWrite 0x04 4 w :: rest ∧ w.getLsbD 4 = true) ∨ ∃ rest, s.script = .reset :: rest)

/-- R45: a command that retires as Complete writes T exactly when it is MRW, MRT or GCD; T changes only so, and by reset,
which clears it: no other command, no fault, no host write and no answer changes it. -/
def Obligations.TFlagWrittenOnlyByVerdictCommands : Prop :=
  (∀ (i : Instr) (s : State) (u : Updates), evaluate i s = .complete u →
    (u.t ≠ none ↔ (∃ rs1 rs2, i = .mrw rs1 rs2) ∨ (∃ rs1, i = .mrt rs1) ∨ ∃ rd rs1 rs2, i = .gcd rd rs1 rs2)) ∧
  (∀ s s' : State, step s = .next s' → s'.t ≠ s.t →
    (∃ rest, s.script = .reset :: rest) ∨
      ∃ i, s.busy = true ∧ decode s.cmd = .ok i ∧ s'.done = true ∧ s'.busy = false ∧
        ((∃ rs1 rs2, i = .mrw rs1 rs2) ∨ (∃ rs1, i = .mrt rs1) ∨ ∃ rd rs1 rs2, i = .gcd rd rs1 rs2)) ∧
  (∀ (s : State) (rest : List Event), s.script = .reset :: rest → ∃ s', step s = .next s' ∧ s'.t = false)

/-- R34, R57, R82: while a command stays in flight, whatever the other agents do, its inputs do not change: the operand
registers, CMD, BS, MLEN and ROUNDS; and the recorded answers only grow. -/
def Obligations.BusyFreezesCommandInputs : Prop :=
  ∀ s s' : State, step s = .next s' → s.busy = true → s'.busy = true →
    s'.x = s.x ∧ s'.cmd = s.cmd ∧ s'.bs = s.bs ∧ s'.mlen = s.mlen ∧ s'.rounds = s.rounds ∧ s'.nlimb = s.nlimb ∧
      s'.t = s.t ∧ ∃ more, s'.draws = s.draws ++ more

/-- R46, R57, R281: what a command writes and how it retires is a function of NLIMB, the operand registers, BS, MLEN, ROUNDS
and the answers: not of T, CTRL, OVR, the fault record or anything else. -/
def Obligations.ResultDependsOnlyOnInputs : Prop :=
  ∀ (i : Instr) (a b : State),
    a.nlimb = b.nlimb → a.x = b.x → a.bs = b.bs → a.mlen = b.mlen → a.rounds = b.rounds → a.draws = b.draws →
      a.busy = true → b.busy = true → a.err = false → b.err = false → a.pending = none → b.pending = none →
        ∃ a' b', exec i a = .next a' ∧ exec i b = .next b' ∧ a'.x = b'.x ∧ a'.bs = b'.bs ∧ a'.busy = b'.busy ∧
          a'.err = b'.err ∧ (a'.err = true → a'.errCode = b'.errCode) ∧ a'.pending = b'.pending ∧
          (a'.t ≠ a.t → a'.t = b'.t)

/-- R31, R51, R170: whatever the command and however it retires, it changes at most one operand register, its `rd`, and
none of CMD, MLEN, ROUNDS, OVR, CTRL, the recorded answers or NLIMB; and BS only if it is BLKSZ. -/
def Obligations.CommandsWriteOnlyTheirDestination : Prop :=
  ∀ (i : Instr) (s s' : State), exec i s = .next s' →
    (∀ r, s'.reg r ≠ s.reg r →
      (∃ rs1 rs2 rs3, i = .modexp r rs1 rs2 rs3) ∨ (∃ rs1 rs2, i = .gcd r rs1 rs2) ∨
        (∃ rs1 rs2, i = .modinv r rs1 rs2) ∨ (∃ rs1, i = .pad r rs1) ∨ ∃ rs1, i = .unpad r rs1) ∧
    (s'.bs ≠ s.bs → ∃ rs1, i = .blksz rs1) ∧
    s'.cmd = s.cmd ∧ s'.mlen = s.mlen ∧ s'.rounds = s.rounds ∧ s'.ovr = s.ovr ∧ s'.ieDone = s.ieDone ∧
    s'.ieErr = s.ieErr ∧ s'.draws = s.draws ∧ s'.nlimb = s.nlimb ∧ s'.script = s.script ∧ s'.response = s.response

/-- R86 b: after an acceptance, whatever turns the engine takes, answers come, and reads and writes the host makes (a
write to STATUS, which may clear DONE and ERR, apart), a read of STATUS sees BUSY, DONE or ERR: never the idle state from
before. -/
def Obligations.AcceptedCommandIsVisible : Prop :=
  ∀ (s : State) (moves rest : List Event),
    s.busy = true →
      (∀ e ∈ moves, e = .engine ∨ (∃ v, e = .answer v) ∨ (∃ a n, e = .hostRead a n) ∨
        ∃ a n w, e = .hostWrite a n w ∧ a ≠ 0x04) →
      s.script = moves ++ .hostRead 0x04 4 :: rest →
      ∃ s' w, runFor (moves.length + 1) s = .next s' ∧ s'.response = some (.data w) ∧
        (w.getLsbD 0 = true ∨ w.getLsbD 1 = true ∨ w.getLsbD 2 = true)

/-- R58, R280: `irq` is asserted exactly while DONE and IE_DONE, or ERR and IE_ERR; it rises only at a retire or by a write
to CTRL, and falls only by a write to STATUS or CTRL, an acceptance, or reset; it is 0 after reset. -/
def Obligations.IrqRisesAndFallsAsStated : Prop :=
  (∀ s : State, s.irq = true ↔ (s.done = true ∧ s.ieDone = true) ∨ (s.err = true ∧ s.ieErr = true)) ∧
  (∀ s s' : State, step s = .next s' →
    (s.irq = false → s'.irq = true →
      (s.busy = true ∧ s'.busy = false) ∨ ∃ w rest, s.script = .hostWrite 0x08 4 w :: rest) ∧
    (s.irq = true → s'.irq = false →
      (∃ a w rest, s.script = .hostWrite a 4 w :: rest ∧ (a = 0x04 ∨ a = 0x08 ∨ (a = 0x00 ∧ s.busy = false))) ∨
        ∃ rest, s.script = .reset :: rest)) ∧
  ∀ n, (State.resetOf n).irq = false

/-! ## The window -/

/-- R72, R73, R74: an aligned 32-bit access reaches exactly the eight control registers at offsets 0x00 to 0x1C and the limbs
j < NLIMB of x0 to x7 at 0x1000 + k * 4 * NLIMB + 4 * j, each offset one of them. -/
def Obligations.WindowMapIsExact : Prop :=
  ∀ (n a : Nat) (g : Target), nlimbOk n = true →
    (resolve n a 4 = some g ↔
      (∃ c : CtlReg, g = .ctl c ∧ a = c.offset) ∨
        ∃ (r : Reg) (j : Nat), g = .limb r j ∧ j < n ∧ a = 0x1000 + r.index * 4 * n + 4 * j)

/-- R75, R80: an access of another size than 4, at a misaligned offset, in the hole above the control registers or past x7's
last limb answers ERROR and changes nothing, OVR included, read or write, busy or not. -/
def Obligations.ErrorAccessChangesNothing : Prop :=
  ∀ (s : State) (a n : Nat) (w : Word) (rest : List Event),
    (n ≠ 4 ∨ a % 4 ≠ 0 ∨ (0x20 ≤ a ∧ a < 0x1000) ∨ 0x1000 + 32 * s.nlimb ≤ a) →
      (s.script = .hostRead a n :: rest ∨ s.script = .hostWrite a n w :: rest) →
        step s = .next { s with script := rest, response := some .error }

/-- R83: a read has no side effect, whatever its offset and size. -/
def Obligations.ReadHasNoSideEffect : Prop :=
  ∀ (s : State) (a n : Nat) (rest : List Event), s.script = .hostRead a n :: rest →
    ∃ answer, answer ≠ .okay ∧ step s = .next { s with script := rest, response := some answer }

/-- R47: a write to CTRL is always performed, busy or not: bits 0 and 1 are IE_DONE and IE_ERR, the others are ignored; a
read returns the two bits and zeros above. -/
def Obligations.CtrlWriteAlwaysPerformed : Prop :=
  (∀ (s : State) (w : Word) (rest : List Event), s.script = .hostWrite 0x08 4 w :: rest →
    step s = .next { s with
      ieDone := w.getLsbD 0, ieErr := w.getLsbD 1, script := rest, response := some .okay }) ∧
  ∀ (s : State) (rest : List Event), s.script = .hostRead 0x08 4 :: rest →
    ∃ w : Word, step s = .next { s with script := rest, response := some (.data w) } ∧
      w.getLsbD 0 = s.ieDone ∧ w.getLsbD 1 = s.ieErr ∧ ∀ k, 2 ≤ k → w.getLsbD k = false

/-- R49, R50, R51: while idle, a write to BS, MLEN or ROUNDS stores all 32 bits, whatever they are; a read returns them. -/
def Obligations.ParameterRegistersStoreWhenIdle : Prop :=
  (∀ (s : State) (w : Word) (rest : List Event), s.busy = false →
    (s.script = .hostWrite 0x10 4 w :: rest →
      step s = .next { s with bs := w, script := rest, response := some .okay }) ∧
    (s.script = .hostWrite 0x14 4 w :: rest →
      step s = .next { s with mlen := w, script := rest, response := some .okay }) ∧
    (s.script = .hostWrite 0x18 4 w :: rest →
      step s = .next { s with rounds := w, script := rest, response := some .okay })) ∧
  ∀ (s : State) (rest : List Event),
    (s.script = .hostRead 0x10 4 :: rest → step s = .next { s with script := rest, response := some (.data s.bs) }) ∧
    (s.script = .hostRead 0x14 4 :: rest → step s = .next { s with script := rest, response := some (.data s.mlen) }) ∧
    (s.script = .hostRead 0x18 4 :: rest → step s = .next { s with script := rest, response := some (.data s.rounds) })

/-- R36, R48, R82: a write to ERR or PARAM is ignored, busy or not, and does not set OVR; a read of ERR returns CODE and
zeros above. -/
def Obligations.ErrAndParamIgnoreWrites : Prop :=
  (∀ (s : State) (a : Nat) (w : Word) (rest : List Event), (a = 0x0C ∨ a = 0x1C) →
    s.script = .hostWrite a 4 w :: rest → step s = .next { s with script := rest, response := some .okay }) ∧
  ∀ (s : State) (rest : List Event), s.script = .hostRead 0x0C 4 :: rest →
    ∃ w : Word, step s = .next { s with script := rest, response := some (.data w) } ∧ w.toNat = s.errCode.toNat

/-- R82: while BUSY, a write to CMD, BS, MLEN, ROUNDS or any limb of any operand register is dropped: it answers OKAY, sets
OVR, and changes nothing else. -/
def Obligations.BusyDropsWrites : Prop :=
  ∀ (s : State) (a : Nat) (w : Word) (rest : List Event),
    s.busy = true →
      (a = 0x00 ∨ a = 0x10 ∨ a = 0x14 ∨ a = 0x18 ∨ (0x1000 ≤ a ∧ a < 0x1000 + 32 * s.nlimb ∧ a % 4 = 0)) →
        s.script = .hostWrite a 4 w :: rest →
          step s = .next { s with ovr := true, script := rest, response := some .okay }

/-- R52: PARAM reads as VERSION 1, NREG 8 and NLIMB in their places, never changes (no step changes NLIMB, reset included),
and for W = 2048 is 0x01080040. -/
def Obligations.ParamReadsItsConstant : Prop :=
  (∀ (s : State) (rest : List Event), s.script = .hostRead 0x1C 4 :: rest → s.nlimb ≤ 65535 →
    ∃ w : Word, step s = .next { s with script := rest, response := some (.data w) } ∧
      w.toNat % 2 ^ 16 = s.nlimb ∧ w.toNat / 2 ^ 16 % 2 ^ 4 = 8 ∧ w.toNat / 2 ^ 20 % 2 ^ 4 = 0 ∧ w.toNat / 2 ^ 24 = 1 ∧
      (s.width = 2048 → w = 0x01080040#32)) ∧
  ∀ s s' : State, step s = .next s' → s'.nlimb = s.nlimb

/-- R74: while idle, a write of limb j of a register replaces those 32 bits and leaves every other bit of it and every other
register; nothing else changes; a read of that offset returns the limb. -/
def Obligations.LimbWriteReplacesOneLimb : Prop :=
  (∀ (s : State) (r : Reg) (j : Nat) (w : Word) (rest : List Event), nlimbOk s.nlimb = true → j < s.nlimb →
    s.busy = false → s.script = .hostWrite (0x1000 + r.index * 4 * s.nlimb + 4 * j) 4 w :: rest →
      ∃ s', step s = .next s' ∧
        s'.reg r = s.reg r - (s.reg r / 2 ^ (32 * j) % 2 ^ 32) * 2 ^ (32 * j) + w.toNat * 2 ^ (32 * j) ∧
        s'.reg r / 2 ^ (32 * j) % 2 ^ 32 = w.toNat ∧
        (∀ k, k ≠ j → s'.reg r / 2 ^ (32 * k) % 2 ^ 32 = s.reg r / 2 ^ (32 * k) % 2 ^ 32) ∧
        (∀ q, q ≠ r → s'.reg q = s.reg q) ∧
        s' = { s with x := s'.x, script := rest, response := some .okay }) ∧
  ∀ (s : State) (r : Reg) (j : Nat) (rest : List Event), nlimbOk s.nlimb = true → j < s.nlimb →
    s.script = .hostRead (0x1000 + r.index * 4 * s.nlimb + 4 * j) 4 :: rest →
      ∃ w : Word, step s = .next { s with script := rest, response := some (.data w) } ∧
        w.toNat = s.reg r / 2 ^ (32 * j) % 2 ^ 32

/-- R76: limb 0 is the least significant; a register's value is the sum of its limbs' values times 2^(32j). -/
def Obligations.RegisterIsSumOfItsLimbs : Prop :=
  ∀ (s : State) (r : Reg), s.Legal →
    s.reg r = ((List.range s.nlimb).map fun j => (limb (s.reg r) j).toNat * 2 ^ (32 * j)).sum

/-- R120: LDX, the NLIMB limb writes in increasing order, leaves the register holding the value and changes nothing else. -/
def Obligations.LdxLoadsTheValue : Prop :=
  ∀ (s : State) (r : Reg) (v : Nat) (rest : List Event),
    nlimbOk s.nlimb = true → s.busy = false → s.reg r < 2 ^ s.width → v < 2 ^ s.width →
      s.script = lineLdx s.nlimb r v ++ rest →
        ∃ s', runFor s.nlimb s = .next s' ∧ s'.reg r = v ∧ (∀ q, q ≠ r → s'.reg q = s.reg q) ∧
          s' = { s with x := s'.x, script := rest, response := some .okay }

/-! ## The random-source port -/

/-- R56, R302: while a request is outstanding the random source's answer is recorded and the request ends; an answer while
none is outstanding is ignored. Both clauses rest on log 4. That every answer move while a request is outstanding is that
request's is the model's choice (DESIGN CHOICE): the late answer from before a reset that R302 ignores is no move of `script`.
That an answer while none is outstanding is always ignored is the model's reading (DEDUCED): R302 says it of one case. -/
def Obligations.AnswerTakenOnlyWhilePending : Prop :=
  ∀ (s : State) (v : Nat) (rest : List Event), v < 2 ^ s.width → s.script = .answer v :: rest →
    (s.pending ≠ none →
      step s = .next { s with draws := s.draws ++ [v], pending := none, script := rest, response := none }) ∧
    (s.pending = none → step s = .next { s with script := rest, response := none })

/-! ## The commands -/

/-- R132, R133: MODEXP writes x[rd] with (b^e) mod n, the exact value, and nothing else; it faults MODULUS, code 2, exactly
when n = 0. Sources are read before rd is written, so any of the four may be the same register (R34). -/
def Obligations.ModexpWritesPowerModN : Prop :=
  ∀ (s : State) (rd rs1 rs2 rs3 : Reg),
    (s.reg rs3 ≠ 0 →
      ∃ s', exec (.modexp rd rs1 rs2 rs3) s = .next s' ∧ s'.reg rd = s.reg rs1 ^ s.reg rs2 % s.reg rs3 ∧
        (∀ r, r ≠ rd → s'.reg r = s.reg r) ∧ s'.bs = s.bs ∧ s'.t = s.t ∧ CompletedFrom s s') ∧
    (s.reg rs3 = 0 → ∃ s', exec (.modexp rd rs1 rs2 rs3) s = .next s' ∧ FaultedFrom s s' 2#8)

/-- R156, R157, with R151 and R152: MRW on an odd n ≥ 5 and a witness in [2, n - 2] sets T exactly when, for n - 1 = 2^r * m
with m odd, a^m mod n is 1 or some a^(2^j * m) mod n with j < r is n - 1; it writes nothing else. Otherwise it faults
RANGE, code 3. -/
def Obligations.MrwRunsOneRound : Prop :=
  ∀ (s : State) (rs1 rs2 : Reg),
    (5 ≤ s.reg rs1 → s.reg rs1 % 2 = 1 → 2 ≤ s.reg rs2 → s.reg rs2 ≤ s.reg rs1 - 2 →
      ∃ s', exec (.mrw rs1 rs2) s = .next s' ∧
        (∀ r m : Nat, s.reg rs1 - 1 = 2 ^ r * m → m % 2 = 1 →
          (s'.t = true ↔
            s.reg rs2 ^ m % s.reg rs1 = 1 ∨ ∃ j < r, s.reg rs2 ^ (2 ^ j * m) % s.reg rs1 = s.reg rs1 - 1)) ∧
        s'.x = s.x ∧ s'.bs = s.bs ∧ CompletedFrom s s') ∧
    ((s.reg rs1 < 5 ∨ s.reg rs1 % 2 = 0 ∨ s.reg rs2 < 2 ∨ s.reg rs1 - 2 < s.reg rs2) →
      ∃ s', exec (.mrw rs1 rs2) s = .next s' ∧ FaultedFrom s s' 3#8)

/-- R154, R164, R166: MRT on n ≤ 3 or even n completes whatever ROUNDS and the answers are, without asking: T is 1 for 2 and
3 and 0 otherwise, and nothing else is written. -/
def Obligations.MrtClassifiesSmallAndEven : Prop :=
  ∀ (s : State) (rs1 : Reg), (s.reg rs1 ≤ 3 ∨ s.reg rs1 % 2 = 0) →
    ∃ s', exec (.mrt rs1) s = .next s' ∧ (s'.t = true ↔ s.reg rs1 = 2 ∨ s.reg rs1 = 3) ∧ s'.x = s.x ∧ s'.bs = s.bs ∧
      CompletedFrom s s'

/-- R164, R165, R166: MRT on an odd n ≥ 5 with the answers so far. If ROUNDS answers are in, all in [2, n - 2] and passing,
T is 1 (R167: with ROUNDS = 0 at once). If, after passing answers, one is outside the interval, it faults RND, code 5; if
one makes the round composite, T is 0. If the answers in all pass and are fewer than ROUNDS, it asks for one in [2, n - 2]. -/
def Obligations.MrtRunsTheRounds : Prop :=
  ∀ (s : State) (rs1 : Reg) (n : Nat), s.reg rs1 = n → 5 ≤ n → n % 2 = 1 →
    ((s.rounds.toNat ≤ s.draws.length →
        (∀ a ∈ s.draws.take s.rounds.toNat, 2 ≤ a ∧ a ≤ n - 2 ∧ mrRound n a = .pass) →
        ∃ s', exec (.mrt rs1) s = .next s' ∧ s'.t = true ∧ s'.x = s.x ∧ s'.bs = s.bs ∧ CompletedFrom s s') ∧
      (∀ (pre post : List Nat) (a : Nat), s.draws = pre ++ a :: post → pre.length < s.rounds.toNat →
        (∀ b ∈ pre, 2 ≤ b ∧ b ≤ n - 2 ∧ mrRound n b = .pass) →
        ((a < 2 ∨ n - 2 < a) → ∃ s', exec (.mrt rs1) s = .next s' ∧ FaultedFrom s s' 5#8) ∧
        (2 ≤ a → a ≤ n - 2 → mrRound n a = .composite →
          ∃ s', exec (.mrt rs1) s = .next s' ∧ s'.t = false ∧ s'.x = s.x ∧ s'.bs = s.bs ∧ CompletedFrom s s')) ∧
      (s.draws.length < s.rounds.toNat → (∀ b ∈ s.draws, 2 ≤ b ∧ b ≤ n - 2 ∧ mrRound n b = .pass) →
        exec (.mrt rs1) s = .next { s with pending := some ⟨2, n - 2⟩ }))

/-- R56, R164, R327: an MRT just accepted on an odd n ≥ 5, its requests answered with ROUNDS witnesses in [2, n - 2] that all
pass, retires with T = 1 after exactly those answers, and writes nothing else. -/
def Obligations.MrtRetiresWhenAnswered : Prop :=
  ∀ (s : State) (rs1 : Reg) (answers : List Nat) (rest : List Event),
    s.Legal → s.busy = true → s.pending = none → s.draws = [] → decode s.cmd = .ok (.mrt rs1) →
      5 ≤ s.reg rs1 → s.reg rs1 % 2 = 1 → answers.length = s.rounds.toNat →
        (∀ a ∈ answers, 2 ≤ a ∧ a ≤ s.reg rs1 - 2 ∧ mrRound (s.reg rs1) a = .pass) →
          s.script = .engine :: (answers.flatMap fun a => [Event.answer a, Event.engine]) ++ rest →
            ∃ s', runFor (2 * answers.length + 1) s = .next s' ∧
              s' = { s with
                busy := false, done := true, t := true, draws := answers, script := rest, response := none }

/-- R158 e, R169 (a fact the spec marks as general knowledge, to be proved from R152): MRT never answers T = 0 on a prime.
So T = 0 on n ≥ 2 shows n composite. -/
def Obligations.MrtNeverRejectsPrime : Prop :=
  ∀ (s s' : State) (rs1 : Reg), Nat.Prime (s.reg rs1) → s.busy = true → s.err = false →
    exec (.mrt rs1) s = .next s' → s'.busy = false → s'.err = false → s'.t = true

/-- R182, R183: GCD writes x[rd] with the greatest common divisor, zero operands included (gcd(0, 0) = 0, gcd(a, 0) = a:
R21), sets T exactly when it is 1, and writes nothing else; it never faults. -/
def Obligations.GcdWritesGreatestCommonDivisor : Prop :=
  ∀ (s : State) (rd rs1 rs2 : Reg),
    ∃ s', exec (.gcd rd rs1 rs2) s = .next s' ∧
      s'.reg rd ∣ s.reg rs1 ∧ s'.reg rd ∣ s.reg rs2 ∧ (∀ k, k ∣ s.reg rs1 → k ∣ s.reg rs2 → k ∣ s'.reg rd) ∧
      (s'.t = true ↔ s'.reg rd = 1) ∧ (∀ r, r ≠ rd → s'.reg r = s.reg r) ∧ s'.bs = s.bs ∧ CompletedFrom s s'

/-- R188, R189: MODINV on m ≠ 0 coprime to a writes x[rd] with the one d below m such that (a * d) mod m = 1 mod m, and
nothing else; it faults MODULUS, code 2, for m = 0 whatever a is, then NOT_COPRIME, code 4. -/
def Obligations.ModinvWritesTheInverse : Prop :=
  ∀ (s : State) (rd rs1 rs2 : Reg),
    (s.reg rs2 ≠ 0 → Nat.gcd (s.reg rs1) (s.reg rs2) = 1 →
      ∃ s', exec (.modinv rd rs1 rs2) s = .next s' ∧ s'.reg rd < s.reg rs2 ∧
        s.reg rs1 * s'.reg rd % s.reg rs2 = 1 % s.reg rs2 ∧
        (∀ d, d < s.reg rs2 → s.reg rs1 * d % s.reg rs2 = 1 % s.reg rs2 → d = s'.reg rd) ∧
        (∀ r, r ≠ rd → s'.reg r = s.reg r) ∧ s'.bs = s.bs ∧ s'.t = s.t ∧ CompletedFrom s s') ∧
    (s.reg rs2 = 0 → ∃ s', exec (.modinv rd rs1 rs2) s = .next s' ∧ FaultedFrom s s' 2#8) ∧
    (s.reg rs2 ≠ 0 → Nat.gcd (s.reg rs1) (s.reg rs2) ≠ 1 →
      ∃ s', exec (.modinv rd rs1 rs2) s = .next s' ∧ FaultedFrom s s' 4#8)

/-- R203: BLKSZ writes BS with ceil(bitlen(n) / 8), the least number of bytes n fits in, 0 for 0, and nothing else. -/
def Obligations.BlkszWritesByteLength : Prop :=
  ∀ (s : State) (rs1 : Reg), s.Legal →
    ∃ s', exec (.blksz rs1) s = .next s' ∧ s.reg rs1 < 2 ^ (8 * s'.bs.toNat) ∧
      (∀ k, s.reg rs1 < 2 ^ (8 * k) → s'.bs.toNat ≤ k) ∧ s'.x = s.x ∧ s'.t = s.t ∧ CompletedFrom s s'

/-- R207: LENCHK completes exactly when MLEN ≤ BS - 11 over the integers, writing nothing, and else faults MSG_TOO_LONG,
code 6; so BS below 11 always faults and nothing wraps (R208). -/
def Obligations.LenchkComparesOverIntegers : Prop :=
  ∀ s : State,
    (s.mlen.toNat + 11 ≤ s.bs.toNat →
      ∃ s', exec .lenchk s = .next s' ∧ s'.x = s.x ∧ s'.bs = s.bs ∧ s'.t = s.t ∧ CompletedFrom s s') ∧
    (s.bs.toNat < s.mlen.toNat + 11 → ∃ s', exec .lenchk s = .next s' ∧ FaultedFrom s s' 6#8)

/-- R213, R214: with 2 ≤ BS ≤ W/8 - 1 and L the least number of bytes v fits in, PAD writes x[rd] with
2^(8P+16) + 2 * 2^(8P) + v for P = BS - L - 2 ≥ 0, the terms added, and nothing else; outside it faults RANGE, code 3. -/
def Obligations.PadWritesTheFormula : Prop :=
  ∀ (s : State) (rd rs1 : Reg) (L : Nat),
    s.reg rs1 < 2 ^ (8 * L) → (∀ k, s.reg rs1 < 2 ^ (8 * k) → L ≤ k) →
      (2 ≤ s.bs.toNat → s.bs.toNat ≤ s.width / 8 - 1 → L + 2 ≤ s.bs.toNat →
        ∃ s', exec (.pad rd rs1) s = .next s' ∧
          s'.reg rd = 2 ^ (8 * (s.bs.toNat - L - 2) + 16) + 2 * 2 ^ (8 * (s.bs.toNat - L - 2)) + s.reg rs1 ∧
          (∀ r, r ≠ rd → s'.reg r = s.reg r) ∧ s'.bs = s.bs ∧ s'.t = s.t ∧ CompletedFrom s s') ∧
      ((s.bs.toNat < 2 ∨ s.width / 8 - 1 < s.bs.toNat ∨ s.bs.toNat < L + 2) →
        ∃ s', exec (.pad rd rs1) s = .next s' ∧ FaultedFrom s s' 3#8)

/-- R216: a PAD that completes leaves x[rd] below 2^(8 BS + 1), and so below 2^(W - 7). -/
def Obligations.PadResultFitsRegister : Prop :=
  ∀ (s s' : State) (rd rs1 : Reg), s.done = false → exec (.pad rd rs1) s = .next s' → s'.done = true →
    s'.reg rd < 2 ^ (8 * s.bs.toNat + 1) ∧ 2 ^ (8 * s.bs.toNat + 1) ≤ 2 ^ (s.width - 7)

/-- R219, R220: with 2 ≤ BS ≤ W/8 - 1, UNPAD writes x[rd] with u AND (2^(8 BS - 16) - 1), that is u mod 2^(8 BS - 16), with
or without a marker, and nothing else; outside it faults RANGE, code 3. -/
def Obligations.UnpadKeepsLowBytes : Prop :=
  ∀ (s : State) (rd rs1 : Reg),
    (2 ≤ s.bs.toNat → s.bs.toNat ≤ s.width / 8 - 1 →
      ∃ s', exec (.unpad rd rs1) s = .next s' ∧ s'.reg rd = s.reg rs1 &&& (2 ^ (8 * s.bs.toNat - 16) - 1) ∧
        s'.reg rd = s.reg rs1 % 2 ^ (8 * s.bs.toNat - 16) ∧
        (∀ r, r ≠ rd → s'.reg r = s.reg r) ∧ s'.bs = s.bs ∧ s'.t = s.t ∧ CompletedFrom s s') ∧
    ((s.bs.toNat < 2 ∨ s.width / 8 - 1 < s.bs.toNat) →
      ∃ s', exec (.unpad rd rs1) s = .next s' ∧ FaultedFrom s s' 3#8)

/-- R222: PAD then UNPAD with the same BS. The low 8k bits of the result are those of v for k ≤ P, and not for
P < k ≤ P + L; for v = 0 the result is v. -/
def Obligations.UnpadAfterPadKeepsBytesBelowP : Prop :=
  ∀ (s : State) (rd rm rs1 : Reg) (L P : Nat),
    s.reg rs1 < 2 ^ (8 * L) → (∀ k, s.reg rs1 < 2 ^ (8 * k) → L ≤ k) →
      s.bs.toNat = P + L + 2 → s.bs.toNat ≤ s.width / 8 - 1 →
        ∃ s' s'', exec (.pad rm rs1) s = .next s' ∧ exec (.unpad rd rm) s' = .next s'' ∧
          (∀ k ≤ P, s''.reg rd % 2 ^ (8 * k) = s.reg rs1 % 2 ^ (8 * k)) ∧
          (∀ k, P < k → k ≤ P + L → s''.reg rd % 2 ^ (8 * k) ≠ s.reg rs1 % 2 ^ (8 * k)) ∧
          (L = 0 → s''.reg rd = s.reg rs1)

/-! ## The host software over the commands' arithmetic -/

/-- R238: the round trip. For a message of 1 to bs - 11 bytes and a key that inverts its padded block, encryption gives a
ciphertext of bs bytes, and decryption returns the message if and only if len(m) + L ≤ bs - 2. -/
def Obligations.DecryptReturnsMessageIffShort : Prop :=
  ∀ (m : List Byte) (n e d : Nat),
    1 ≤ m.length → m.length + 11 ≤ bytelen n →
      modexp (modexp (padBlock (fromBe m) (bytelen n)) e n) d n = padBlock (fromBe m) (bytelen n) →
        ∃ c, encrypt m n e = some (c, m.length) ∧ c.length = bytelen n ∧
          (decrypt c m.length n d = m ↔ m.length + bytelen (fromBe m) + 2 ≤ bytelen n)

/-- R137 (the RSA theorem, which the spec marks as general knowledge): for distinct primes p, q and e * d = 1 modulo
(p - 1) * (q - 1), MODEXP by d undoes MODEXP by e below n = p * q. -/
def Obligations.RsaDecryptionInvertsEncryption : Prop :=
  ∀ p q e d m : Nat, Nat.Prime p → Nat.Prime q → p ≠ q → e * d % ((p - 1) * (q - 1)) = 1 → m < p * q →
    modexp (modexp m e (p * q)) d (p * q) = m

/-- R195, R243, properties 3 and 5 of the source: a key pair derived from p and q has e in [2, φ - 1] coprime to φ and
e * d mod φ = 1, with d below φ, for φ = (p - 1)(q - 1). -/
def Obligations.DerivedKeysAreInverse : Prop :=
  ∀ (p q : Nat) (samples : List Nat) (k : KeyPair), deriveKeys p q samples = some k →
    k.n = p * q ∧ k.e ∈ samples ∧ 2 ≤ k.e ∧ k.e ≤ (p - 1) * (q - 1) - 1 ∧ Nat.gcd k.e ((p - 1) * (q - 1)) = 1 ∧
      k.d < (p - 1) * (q - 1) ∧ k.e * k.d % ((p - 1) * (q - 1)) = 1

/-! ## The host on the block -/

/-- R120: WAIT ends at the first STATUS read whose bit 0 is 0, and that word, the flags then, is its result. It has not
ended exactly when every word read so far was busy (R319). The moves of the other agents between the reads are open. -/
def Obligations.WaitReturnsTheFirstIdleStatus : Prop :=
  ∀ (polls : Polls) (s : State),
    (∀ s' w, waitFor polls s = some (s', w) →
      ∃ k < polls.length,
        s' = play ((polls.take (k + 1)).flatMap fun others => others ++ [lineRd .status]) s ∧
        (∀ j < k, (play ((polls.take (j + 1)).flatMap fun others => others ++ [lineRd .status]) s).busy = true) ∧
        s'.busy = false ∧ w.getLsbD 0 = false ∧ w.getLsbD 1 = s'.done ∧ w.getLsbD 2 = s'.err ∧ w.getLsbD 3 = s'.t ∧
        w.getLsbD 4 = s'.ovr) ∧
    (waitFor polls s = none ↔
      ∀ k < polls.length, (play ((polls.take (k + 1)).flatMap fun others => others ++ [lineRd .status]) s).busy = true)

/-- R234, R327: a command other than MRT, issued on an idle block without ERR, retires at the engine's first turn, so its WAIT
ends there; that one turn evaluates and retires is the model's reading (log 5). The check of STATUS.ERR after any WAIT that
ended lets the host go on when ERR is 0, and stops it with ERR.CODE when ERR is 1; R234 asks for the check and says what code
6 of LENCHK is, and that every code stops the host is the model's choice (log 19). -/
def Obligations.CommandStopsTheHostOnFault : Prop :=
  (∀ (i : Instr) (more : Polls) (s : State), (∀ rs1, i ≠ .mrt rs1) → s.busy = false → s.err = false →
    ∃ s' w, issue i ([.engine] :: more) s = .ok (s', w) ∧ s'.busy = false ∧ s'.cmd = encode i ∧
      w.getLsbD 1 = s'.done ∧ w.getLsbD 2 = s'.err ∧ w.getLsbD 3 = s'.t ∧ (s'.done = true ↔ s'.err = false)) ∧
  ∀ (i : Instr) (polls : Polls) (s s' : State) (w : Word), issue i polls s = .ok (s', w) →
    (s'.err = false → command i polls s = .ok (s', w)) ∧
    (s'.err = true → ∃ code, command i polls s = .error (.fault code) ∧ code.toNat = s'.errCode.toNat)

/-- R234: encryption run on the block, n in x3 and e in x2, bytelen n within BSMAX, the engine's turn before the first STATUS
read of each WAIT, gives what `encrypt` of R233 gives: the ciphertext and the length, or, where that is MessageTooLong, a stop
at LENCHK's fault, code 6. That no other agent moves between the host's lines outside a WAIT is the model's choice (log 15),
so a run with a reset or another host's write there is not among these; runs whose engine turn comes after a busy read are
left out. That the fault stops the host is the model's choice (log 19). -/
def Obligations.EncryptOnBlockAgreesWithEncrypt : Prop :=
  ∀ (s : State) (message : List Byte) (more : Nat → Polls),
    s.Fits → s.busy = false → s.err = false → bytelen (s.reg .x3) ≤ s.bsMax → message.length < 2 ^ 32 →
      (encrypt message (s.reg .x3) (s.reg .x2) = none →
        encryptOnBlock (fun k => [.engine] :: more k) message (s.reg .x3) s = .error (.fault 6#32)) ∧
      ∀ result, encrypt message (s.reg .x3) (s.reg .x2) = some result →
        ∃ s', encryptOnBlock (fun k => [.engine] :: more k) message (s.reg .x3) s = .ok (s', result)
end

