-- ==== Sys2Proof/Laws/Arith.lean ====
section
/-! SUPPORT. What the procedures of Machine/Arith.lean compute: the values of spec/00_scope.md R18 and R19, the Bezout
coefficients and the inverse of spec/42_gcd_inverse.md R188 and R190, the decomposition of spec/41_miller_rabin.md R151. -/

namespace Sys2Proof.Machine

theorem bitlen_zero : bitlen 0 = 0 := rfl

theorem bitlen_of_pos {v : Nat} (h : 0 < v) : bitlen v = v.log2 + 1 := by
  simp [bitlen, Nat.ne_of_gt h]

theorem lt_two_pow_bitlen (v : Nat) : v < 2 ^ bitlen v := by
  rcases Nat.eq_zero_or_pos v with rfl | h
  · decide
  · rw [bitlen_of_pos h]; exact Nat.lt_log2_self

theorem two_pow_le_of_bitlen_pos {v : Nat} (h : 0 < v) : 2 ^ (bitlen v - 1) ≤ v := by
  rw [bitlen_of_pos h, Nat.add_sub_cancel]
  exact Nat.log2_self_le (Nat.ne_of_gt h)

theorem bitlen_le_iff {v k : Nat} : bitlen v ≤ k ↔ v < 2 ^ k := by
  constructor
  · intro h
    exact lt_of_lt_of_le (lt_two_pow_bitlen v) (Nat.pow_le_pow_right (by decide) h)
  · intro h
    rcases Nat.eq_zero_or_pos v with rfl | hv
    · simp [bitlen]
    · rw [bitlen_of_pos hv, Nat.succ_le_iff]
      exact (Nat.log2_lt (Nat.ne_of_gt hv)).2 h

theorem bytelen_le_iff {v k : Nat} : bytelen v ≤ k ↔ v < 2 ^ (8 * k) := by
  rw [← bitlen_le_iff, bytelen]
  omega

theorem modexpLoop_eq (b e n : Nat) : ∀ k r, modexpLoop b e n k (r % n) = r ^ 2 ^ k * b ^ (e % 2 ^ k) % n
  | 0, r => by simp [modexpLoop, Nat.mod_one]
  | k + 1, r => by
    have hb : e % 2 ^ (k + 1) = e % 2 ^ k + 2 ^ k * (e / 2 ^ k % 2) := Nat.mod_pow_succ
    have hp : r ^ 2 ^ (k + 1) = (r * r) ^ 2 ^ k := by rw [← pow_two, ← pow_mul, pow_succ, mul_comm]
    have hr : r % n * (r % n) % n = r * r % n := (Nat.mul_mod r r n).symm
    have ht : e.testBit k = decide (e / 2 ^ k % 2 = 1) := Nat.testBit_eq_decide_div_mod_eq
    rw [modexpLoop, hr, hb, hp]
    rcases Nat.mod_two_eq_zero_or_one (e / 2 ^ k) with h | h
    · rw [ht, h]
      simpa using modexpLoop_eq b e n k (r * r)
    · rw [ht, h, Nat.mod_mul_mod]
      have := modexpLoop_eq b e n k (r * r * b)
      simp only [decide_true, if_true, mul_one, pow_add]
      rw [this, mul_pow, mul_assoc, mul_comm (b ^ 2 ^ k)]

theorem modexp_eq (b e n : Nat) : modexp b e n = b ^ e % n := by
  rw [modexp, modexpLoop_eq, one_pow, one_mul, Nat.mod_eq_of_lt (lt_two_pow_bitlen e)]

/-- R190's invariant of the loop's state. -/
def BezoutOk (a m : Nat) (z : Bezout) : Prop :=
  (a : Int) * z.s0 + m * z.t0 = z.r0 ∧ (a : Int) * z.s1 + m * z.t1 = z.r1 ∧ Nat.gcd z.r0 z.r1 = Nat.gcd a m

theorem bezoutTurn_ok {a m : Nat} {z : Bezout} (h : BezoutOk a m z) : BezoutOk a m (bezoutTurn z) := by
  obtain ⟨h0, h1, hg⟩ := h
  refine ⟨h1, ?_, ?_⟩
  · have hd : (z.r0 : Int) = z.r1 * ((z.r0 / z.r1 : Nat) : Int) + ((z.r0 % z.r1 : Nat) : Int) := by
      exact_mod_cast (Nat.div_add_mod z.r0 z.r1).symm
    simp only [bezoutTurn]
    linear_combination h0 - ((z.r0 / z.r1 : Nat) : Int) * h1 + hd
  · rw [← hg]
    simp only [bezoutTurn]
    rw [Nat.gcd_comm z.r1, ← Nat.gcd_rec, Nat.gcd_comm]

theorem bezoutLoop_ok {a m : Nat} : ∀ {k z}, BezoutOk a m z → z.r1 < k →
    BezoutOk a m (bezoutLoop k z) ∧ (bezoutLoop k z).r1 = 0
  | 0, _, _, h => absurd h (Nat.not_lt_zero _)
  | k + 1, z, hz, h => by
    by_cases hr : z.r1 = 0
    · simpa [bezoutLoop, hr] using hz
    · have : (bezoutTurn z).r1 < k :=
        lt_of_lt_of_le (Nat.mod_lt _ (Nat.pos_of_ne_zero hr)) (Nat.le_of_lt_succ h)
      simpa [bezoutLoop, hr] using bezoutLoop_ok (bezoutTurn_ok hz) this

theorem bezout_spec (a m : Nat) :
    (a : Int) * (bezout a m).s0 + m * (bezout a m).t0 = Nat.gcd a m := by
  have h : BezoutOk a m (bezout a m) ∧ (bezout a m).r1 = 0 :=
    bezoutLoop_ok (z := ⟨a, m, 1, 0, 0, 1⟩) ⟨by simp, by simp, rfl⟩ (Nat.lt_succ_self m)
  obtain ⟨⟨h0, -, hg⟩, hr⟩ := h
  rw [hr, Nat.gcd_zero_right] at hg
  rw [h0, hg]

theorem modInverse_lt {a m : Nat} (hm : 0 < m) : modInverse a m < m := by
  have := Int.emod_lt_of_pos (bezout a m).s0 (Int.natCast_pos.2 hm)
  have h0 := Int.emod_nonneg (bezout a m).s0 (Int.natCast_ne_zero.2 (Nat.ne_of_gt hm))
  rw [modInverse]
  omega

theorem mul_modInverse {a m : Nat} (hm : 0 < m) (hg : Nat.gcd a m = 1) : a * modInverse a m % m = 1 % m := by
  have h0 := Int.emod_nonneg (bezout a m).s0 (Int.natCast_ne_zero.2 (Nat.ne_of_gt hm))
  have hb := bezout_spec a m
  rw [hg] at hb
  zify
  rw [modInverse, Int.toNat_of_nonneg h0, Int.mul_emod, Int.emod_emod_of_dvd _ (dvd_refl _), ← Int.mul_emod]
  have : (a : Int) * (bezout a m).s0 = 1 - m * (bezout a m).t0 := by
    push_cast at hb; linarith
  rw [this]
  simp [Int.sub_emod]

theorem halveLoop_spec : ∀ k r s, 0 < s → s < 2 ^ k →
    ∃ j, halveLoop k r s = (r + j, s / 2 ^ j) ∧ s = 2 ^ j * (s / 2 ^ j) ∧ (s / 2 ^ j) % 2 = 1
  | 0, _, s, h0, h => by simp at h; omega
  | k + 1, r, s, h0, h => by
    by_cases he : s % 2 = 0
    · obtain ⟨j, h1, h2, h3⟩ := halveLoop_spec k (r + 1) (s / 2) (by omega) (by rw [pow_succ] at h; omega)
      have hd : s / 2 / 2 ^ j = s / 2 ^ (j + 1) := by rw [Nat.div_div_eq_div_mul, pow_succ, mul_comm]
      refine ⟨j + 1, ?_, ?_, ?_⟩
      · rw [halveLoop, if_pos he, h1, hd]; congr 1; omega
      · rw [hd] at h2
        rw [pow_succ, mul_right_comm]
        have := Nat.div_add_mod s 2
        rw [he] at this
        rw [← pow_succ] 
        omega
      · rw [← hd]; exact h3
    · exact ⟨0, by simp [halveLoop, he], by simp, by simp; omega⟩

theorem decomp_spec {n : Nat} (hn : 2 ≤ n) :
    n - 1 = 2 ^ (decomp n).1 * (decomp n).2 ∧ (decomp n).2 % 2 = 1 := by
  obtain ⟨j, h1, h2, h3⟩ := halveLoop_spec (bitlen (n - 1)) 0 (n - 1) (by omega) (lt_two_pow_bitlen _)
  rw [decomp, h1]
  simp only [Nat.zero_add]
  exact ⟨h2, h3⟩
end Sys2Proof.Machine
end

