-- ==== Sys2Proof/Laws/Commands.lean ====
section
/-! SUPPORT. The checks and the loops of the commands, each said once as a proposition: the range checks of
spec/41_miller_rabin.md R152 and spec/43_block_padding.md R211, the squarings of R152, the answers MRT's rounds can give
(R164). -/

namespace Sys2Proof.Machine

/-- The constraint on NLIMB (R10). -/
theorem nlimbOk_iff {n : Nat} : nlimbOk n = true ↔ 2 ≤ n ∧ n ≤ 65535 := by
  simp only [nlimbOk, Bool.and_eq_true, decide_eq_true_eq]

/-- The block-size window (R211). -/
theorem blockSizeOk_iff {s : State} : s.blockSizeOk = true ↔ 2 ≤ s.bs.toNat ∧ s.bs.toNat ≤ s.width / 8 - 1 := by
  rw [State.blockSizeOk, Bool.and_eq_true, decide_eq_true_eq, decide_eq_true_eq]
  exact Iff.rfl

/-- Outside the block-size window. -/
theorem blockSizeOk_false_iff {s : State} :
    s.blockSizeOk = false ↔ s.bs.toNat < 2 ∨ s.width / 8 - 1 < s.bs.toNat := by
  rw [← Bool.not_eq_true, blockSizeOk_iff]
  omega

/-- The candidates of a round (R152). -/
theorem candidateOk_iff {n : Nat} : candidateOk n = true ↔ 5 ≤ n ∧ n % 2 = 1 := by
  simp only [candidateOk, Bool.and_eq_true, decide_eq_true_eq]

/-- The witnesses of a round (R152). -/
theorem witnessOk_iff {n a : Nat} : witnessOk n a = true ↔ 2 ≤ a ∧ a ≤ n - 2 := by
  simp only [witnessOk, Bool.and_eq_true, decide_eq_true_eq]

/-- P is not negative exactly when BS holds L and the marker (R213). -/
theorem padOffset_of_le {bs v : Nat} (h : bytelen v + 2 ≤ bs) : padOffset bs v = ((bs - bytelen v - 2 : Nat) : Int) := by
  rw [padOffset, Config.markerBytes]
  omega

/-- P is negative otherwise. -/
theorem padOffset_neg {bs v : Nat} : padOffset bs v < 0 ↔ bs < bytelen v + 2 := by
  rw [padOffset, Config.markerBytes]
  omega

/-- The unpad mask keeps the low bits: u mod 2^(8 bs - 16) (R219). -/
theorem unpadValue_eq_mod (bs u : Nat) : unpadValue bs u = u % 2 ^ (8 * bs - 16) := by
  rw [unpadValue, Nat.and_two_pow_sub_one_eq_mod]

/-- The squarings pass exactly when one of the k successive squares is n - 1 (R152). -/
theorem squareLoop_pass_iff (n : Nat) :
    ∀ k x, squareLoop n k (x % n) = .pass ↔ ∃ j < k, x ^ 2 ^ (j + 1) % n = n - 1
  | 0, x => by simp [squareLoop]
  | k + 1, x => by
    have hx : x % n * (x % n) % n = x * x % n := (Nat.mul_mod x x n).symm
    have h2 : x * x = x ^ 2 ^ (0 + 1) := by rw [zero_add, pow_one, pow_two]
    have hs : ∀ j, (x * x) ^ 2 ^ (j + 1) = x ^ 2 ^ (j + 1 + 1) := fun j => by
      rw [← pow_two, ← pow_mul, ← pow_succ']
    rw [squareLoop, hx]
    split
    · rename_i h
      exact ⟨fun _ => ⟨0, Nat.succ_pos k, h2 ▸ h⟩, fun _ => rfl⟩
    · rename_i h
      rw [squareLoop_pass_iff n k (x * x)]
      constructor
      · rintro ⟨j, hj, hp⟩
        exact ⟨j + 1, Nat.succ_lt_succ hj, hs j ▸ hp⟩
      · rintro ⟨j, hj, hp⟩
        cases j with
        | zero => exact absurd (h2 ▸ hp) h
        | succ j => exact ⟨j, Nat.lt_of_succ_lt_succ hj, (hs j).symm ▸ hp⟩

/-- Passing answers use up rounds, one each (R164). -/
theorem mrtRounds_append {n : Nat} : ∀ {pre : List Nat} {k : Nat} (post : List Nat),
    (∀ a ∈ pre, 2 ≤ a ∧ a ≤ n - 2 ∧ mrRound n a = .pass) → pre.length ≤ k →
      mrtRounds n k (pre ++ post) = mrtRounds n (k - pre.length) post
  | [], k, post, _, _ => rfl
  | a :: pre, 0, post, _, h => absurd h (Nat.not_succ_le_zero _)
  | a :: pre, k + 1, post, hp, h => by
    obtain ⟨h1, h2, h3⟩ := hp a (by simp)
    rw [List.cons_append, mrtRounds, if_neg (by simp [witnessOk_iff.2 ⟨h1, h2⟩]), if_neg (by simp [h3]),
      mrtRounds_append post (fun b hb => hp b (by simp [hb])) (by simpa using h)]
    simp

/-- With no round left MRT passes (R164, R167). -/
@[simp] theorem mrtRounds_zero (n : Nat) (draws : List Nat) : mrtRounds n 0 draws = .complete { t := some true } := by
  cases draws <;> rfl

/-- MRT writes no register and not BS (R170). -/
theorem mrtTest_writes {n k : Nat} {draws : List Nat} {u : Updates} (h : mrtTest n k draws = .complete u) :
    u.dest = none ∧ u.bs = none := by
  have hr : ∀ draws k, mrtRounds n k draws = .complete u → u.dest = none ∧ u.bs = none := by
    intro draws
    induction draws with
    | nil => intro k hk; cases k <;> cases hk; exact ⟨rfl, rfl⟩
    | cons a rest ih =>
      intro k hk
      cases k with
      | zero => cases hk; exact ⟨rfl, rfl⟩
      | succ k =>
        rw [mrtRounds] at hk
        split at hk
        · cases hk
        split at hk
        · cases hk; exact ⟨rfl, rfl⟩
        · exact ih k hk
  rw [mrtTest] at h
  split at h
  · cases h; exact ⟨rfl, rfl⟩
  split at h
  · cases h; exact ⟨rfl, rfl⟩
  split at h
  · cases h; exact ⟨rfl, rfl⟩
  · exact hr _ _ h

end Sys2Proof.Machine
end

