-- ==== Sys2Proof/Laws/Encoding.lean ====
section
/-! SUPPORT. The small lemmas of the encoding: a register's field and back, fields put side by side and split again, a
row's test said field by field, and that every command is well formed. -/

namespace Sys2Proof

@[simp] theorem Reg.ofField_field (r : Reg) : Reg.ofField r.field = r := by cases r <;> rfl

@[simp] theorem Reg.field_ofField (b : BitVec 3) : (Reg.ofField b).field = b := by
  revert b
  decide

/-- Splitting a word put together from fields gives the fields back. -/
theorem fieldsOf_assemble (f : Fields) : fieldsOf (assemble f) = f := by
  obtain ⟨z, c, b, a, d, o⟩ := f
  simp only [fieldsOf, assemble, Fields.mk.injEq]
  refine ⟨?_, ?_, ?_, ?_, ?_, ?_⟩ <;>
  · apply BitVec.eq_of_getLsbD_eq
    intro i hi
    simp only [BitVec.getLsbD_extractLsb', BitVec.getLsbD_append, hi, decide_true, Bool.true_and]
    repeat' split
    all_goals first | omega | (congr 1; omega)

/-- Putting the fields of a word together gives the word back: format C has no other bit (R101). -/
theorem assemble_fieldsOf (w : Word) : assemble (fieldsOf w) = w := by
  apply BitVec.eq_of_getLsbD_eq
  intro i hi
  simp only [fieldsOf, assemble, BitVec.getLsbD_append, BitVec.getLsbD_extractLsb']
  repeat' split
  all_goals
    rw [decide_eq_true (by omega), Bool.true_and]
    congr 1
    omega

theorem assemble_inj {f g : Fields} : assemble f = assemble g ↔ f = g :=
  ⟨fun h => by rw [← fieldsOf_assemble f, h, fieldsOf_assemble], fun h => h ▸ rfl⟩

/-- AND works field by field. -/
theorem assemble_and (f g : Fields) :
    assemble f &&& assemble g =
      assemble ⟨f.zero &&& g.zero, f.rs3 &&& g.rs3, f.rs2 &&& g.rs2, f.rs1 &&& g.rs1, f.rd &&& g.rd,
        f.opcode &&& g.opcode⟩ := by
  apply BitVec.eq_of_getLsbD_eq
  intro i hi
  simp only [assemble, BitVec.getLsbD_and, BitVec.getLsbD_append]
  repeat' split
  all_goals rfl

/-- A row's test `(c AND mask) = match` (R105), field by field. -/
theorem OpRow.hits_eq (r : OpRow) (w : Word) :
    r.hits w =
      ((fieldsOf w).zero &&& (fieldsOf r.mask).zero == (fieldsOf r.matchBits).zero &&
        ((fieldsOf w).rs3 &&& (fieldsOf r.mask).rs3 == (fieldsOf r.matchBits).rs3 &&
          ((fieldsOf w).rs2 &&& (fieldsOf r.mask).rs2 == (fieldsOf r.matchBits).rs2 &&
            ((fieldsOf w).rs1 &&& (fieldsOf r.mask).rs1 == (fieldsOf r.matchBits).rs1 &&
              ((fieldsOf w).rd &&& (fieldsOf r.mask).rd == (fieldsOf r.matchBits).rd &&
                (fieldsOf w).opcode &&& (fieldsOf r.mask).opcode == (fieldsOf r.matchBits).opcode))))) := by
  rw [Bool.eq_iff_iff]
  simp only [Bool.and_eq_true, beq_iff_eq]
  conv_lhs =>
    rw [OpRow.hits, beq_iff_eq, ← assemble_fieldsOf w, ← assemble_fieldsOf r.mask, ← assemble_fieldsOf r.matchBits,
      assemble_and, assemble_inj]
  exact Fields.ext_iff

/-- The encoder writes the fields of the command, side by side. -/
theorem encode_eq_assemble (i : Instr) : encode i = assemble i.fields := by cases i <;> rfl

/-- The two masks R105 gives as ORs of field masks: a row's mask is zero exactly at the register fields it uses. -/
theorem opTable_masks :
    opTable.map (fun r => (r.mnemonic, fieldsOf r.mask)) =
      [("MODEXP", ⟨0xFFF, 0, 0, 0, 0, 0xFF⟩), ("MRW", ⟨0xFFF, 7, 0, 0, 7, 0xFF⟩), ("MRT", ⟨0xFFF, 7, 7, 0, 7, 0xFF⟩),
        ("GCD", ⟨0xFFF, 7, 0, 0, 0, 0xFF⟩), ("MODINV", ⟨0xFFF, 7, 0, 0, 0, 0xFF⟩), ("PAD", ⟨0xFFF, 7, 7, 0, 0, 0xFF⟩),
        ("UNPAD", ⟨0xFFF, 7, 7, 0, 0, 0xFF⟩), ("BLKSZ", ⟨0xFFF, 7, 7, 0, 7, 0xFF⟩),
        ("LENCHK", ⟨0xFFF, 7, 7, 7, 7, 0xFF⟩)] := by
  decide

/-- Register names cannot be out of range, so every command is well formed (R102). -/
theorem wellFormed_all (i : Instr) : i.wellFormed = true := by
  cases i <;> rfl

end Sys2Proof
end

