-- ==== Sys2Proof/Laws/State.lean ====
section
/-! SUPPORT. The small lemmas of the register file and of each named update: what a register reads after a write, and one
lemma per field per update, so that no proof unfolds a record update. -/

namespace Sys2Proof.Machine

@[simp] theorem OperandRegs.get_set_same (x : OperandRegs) (r : Reg) (v : Nat) : (x.set r v).get r = v := by
  cases r <;> rfl

@[simp] theorem OperandRegs.get_set_other (x : OperandRegs) {r q : Reg} (v : Nat) (h : q ≠ r) :
    (x.set r v).get q = x.get q := by
  cases r <;> cases q <;> first | rfl | exact absurd rfl h

/-- Two register files that read alike are equal. -/
theorem OperandRegs.ext_get {x y : OperandRegs} (h : ∀ r, x.get r = y.get r) : x = y := by
  ext
  · exact h .x0
  · exact h .x1
  · exact h .x2
  · exact h .x3
  · exact h .x4
  · exact h .x5
  · exact h .x6
  · exact h .x7

@[simp] theorem OperandRegs.get_zero (r : Reg) : OperandRegs.zero.get r = 0 := by cases r <;> rfl

@[simp] theorem OperandRegs.write_none (x : OperandRegs) : x.write none = x := rfl
@[simp] theorem OperandRegs.write_some (x : OperandRegs) (r : Reg) (v : Nat) : x.write (some (r, v)) = x.set r v := rfl

@[simp] theorem State.reg_setReg_same (s : State) (r : Reg) (v : Nat) : (s.setReg r v).reg r = v :=
  OperandRegs.get_set_same s.x r v

@[simp] theorem State.reg_setReg_other (s : State) {r q : Reg} (v : Nat) (h : q ≠ r) : (s.setReg r v).reg q = s.reg q :=
  OperandRegs.get_set_other s.x v h

/-- A register reads alike in states with the same register file. -/
theorem State.reg_congr {s t : State} (h : t.x = s.x) (r : Reg) : t.reg r = s.reg r := by
  rw [State.reg, State.reg, h]

/-- W is a function of NLIMB alone. -/
theorem State.width_congr {s t : State} (h : t.nlimb = s.nlimb) : t.width = s.width := by
  rw [State.width, State.width, h]

section setReg
variable (s : State) (r : Reg) (v : Nat)

@[simp] theorem State.setReg_nlimb : (s.setReg r v).nlimb = s.nlimb := rfl
@[simp] theorem State.setReg_x : (s.setReg r v).x = s.x.set r v := rfl
@[simp] theorem State.setReg_cmd : (s.setReg r v).cmd = s.cmd := rfl
@[simp] theorem State.setReg_busy : (s.setReg r v).busy = s.busy := rfl
@[simp] theorem State.setReg_done : (s.setReg r v).done = s.done := rfl
@[simp] theorem State.setReg_err : (s.setReg r v).err = s.err := rfl
@[simp] theorem State.setReg_t : (s.setReg r v).t = s.t := rfl
@[simp] theorem State.setReg_ovr : (s.setReg r v).ovr = s.ovr := rfl
@[simp] theorem State.setReg_ieDone : (s.setReg r v).ieDone = s.ieDone := rfl
@[simp] theorem State.setReg_ieErr : (s.setReg r v).ieErr = s.ieErr := rfl
@[simp] theorem State.setReg_errCode : (s.setReg r v).errCode = s.errCode := rfl
@[simp] theorem State.setReg_bs : (s.setReg r v).bs = s.bs := rfl
@[simp] theorem State.setReg_mlen : (s.setReg r v).mlen = s.mlen := rfl
@[simp] theorem State.setReg_rounds : (s.setReg r v).rounds = s.rounds := rfl
@[simp] theorem State.setReg_draws : (s.setReg r v).draws = s.draws := rfl
@[simp] theorem State.setReg_pending : (s.setReg r v).pending = s.pending := rfl
@[simp] theorem State.setReg_script : (s.setReg r v).script = s.script := rfl
@[simp] theorem State.setReg_response : (s.setReg r v).response = s.response := rfl

end setReg

section accept
variable (s : State) (c : Word)

@[simp] theorem State.accept_nlimb : (s.accept c).nlimb = s.nlimb := rfl
@[simp] theorem State.accept_x : (s.accept c).x = s.x := rfl
@[simp] theorem State.accept_cmd : (s.accept c).cmd = c := rfl
@[simp] theorem State.accept_busy : (s.accept c).busy = true := rfl
@[simp] theorem State.accept_done : (s.accept c).done = false := rfl
@[simp] theorem State.accept_err : (s.accept c).err = s.err := rfl
@[simp] theorem State.accept_t : (s.accept c).t = s.t := rfl
@[simp] theorem State.accept_ovr : (s.accept c).ovr = s.ovr := rfl
@[simp] theorem State.accept_ieDone : (s.accept c).ieDone = s.ieDone := rfl
@[simp] theorem State.accept_ieErr : (s.accept c).ieErr = s.ieErr := rfl
@[simp] theorem State.accept_errCode : (s.accept c).errCode = s.errCode := rfl
@[simp] theorem State.accept_bs : (s.accept c).bs = s.bs := rfl
@[simp] theorem State.accept_mlen : (s.accept c).mlen = s.mlen := rfl
@[simp] theorem State.accept_rounds : (s.accept c).rounds = s.rounds := rfl
@[simp] theorem State.accept_draws : (s.accept c).draws = [] := rfl
@[simp] theorem State.accept_pending : (s.accept c).pending = none := rfl
@[simp] theorem State.accept_script : (s.accept c).script = s.script := rfl
@[simp] theorem State.accept_response : (s.accept c).response = s.response := rfl

end accept

section dropWrite
variable (s : State)

@[simp] theorem State.dropWrite_nlimb : (s.dropWrite).nlimb = s.nlimb := rfl
@[simp] theorem State.dropWrite_x : (s.dropWrite).x = s.x := rfl
@[simp] theorem State.dropWrite_cmd : (s.dropWrite).cmd = s.cmd := rfl
@[simp] theorem State.dropWrite_busy : (s.dropWrite).busy = s.busy := rfl
@[simp] theorem State.dropWrite_done : (s.dropWrite).done = s.done := rfl
@[simp] theorem State.dropWrite_err : (s.dropWrite).err = s.err := rfl
@[simp] theorem State.dropWrite_t : (s.dropWrite).t = s.t := rfl
@[simp] theorem State.dropWrite_ovr : (s.dropWrite).ovr = true := rfl
@[simp] theorem State.dropWrite_ieDone : (s.dropWrite).ieDone = s.ieDone := rfl
@[simp] theorem State.dropWrite_ieErr : (s.dropWrite).ieErr = s.ieErr := rfl
@[simp] theorem State.dropWrite_errCode : (s.dropWrite).errCode = s.errCode := rfl
@[simp] theorem State.dropWrite_bs : (s.dropWrite).bs = s.bs := rfl
@[simp] theorem State.dropWrite_mlen : (s.dropWrite).mlen = s.mlen := rfl
@[simp] theorem State.dropWrite_rounds : (s.dropWrite).rounds = s.rounds := rfl
@[simp] theorem State.dropWrite_draws : (s.dropWrite).draws = s.draws := rfl
@[simp] theorem State.dropWrite_pending : (s.dropWrite).pending = s.pending := rfl
@[simp] theorem State.dropWrite_script : (s.dropWrite).script = s.script := rfl
@[simp] theorem State.dropWrite_response : (s.dropWrite).response = s.response := rfl

end dropWrite

section complete
variable (s : State) (u : Updates)

@[simp] theorem State.complete_nlimb : (s.complete u).nlimb = s.nlimb := rfl
@[simp] theorem State.complete_x : (s.complete u).x = s.x.write u.dest := rfl
@[simp] theorem State.complete_cmd : (s.complete u).cmd = s.cmd := rfl
@[simp] theorem State.complete_busy : (s.complete u).busy = false := rfl
@[simp] theorem State.complete_done : (s.complete u).done = true := rfl
@[simp] theorem State.complete_err : (s.complete u).err = s.err := rfl
@[simp] theorem State.complete_t : (s.complete u).t = u.t.getD s.t := rfl
@[simp] theorem State.complete_ovr : (s.complete u).ovr = s.ovr := rfl
@[simp] theorem State.complete_ieDone : (s.complete u).ieDone = s.ieDone := rfl
@[simp] theorem State.complete_ieErr : (s.complete u).ieErr = s.ieErr := rfl
@[simp] theorem State.complete_errCode : (s.complete u).errCode = s.errCode := rfl
@[simp] theorem State.complete_bs : (s.complete u).bs = u.bs.getD s.bs := rfl
@[simp] theorem State.complete_mlen : (s.complete u).mlen = s.mlen := rfl
@[simp] theorem State.complete_rounds : (s.complete u).rounds = s.rounds := rfl
@[simp] theorem State.complete_draws : (s.complete u).draws = s.draws := rfl
@[simp] theorem State.complete_pending : (s.complete u).pending = s.pending := rfl
@[simp] theorem State.complete_script : (s.complete u).script = s.script := rfl
@[simp] theorem State.complete_response : (s.complete u).response = s.response := rfl

end complete

section takeFault
variable (s : State) (c : FaultCode)

@[simp] theorem State.takeFault_nlimb : (s.takeFault c).nlimb = s.nlimb := rfl
@[simp] theorem State.takeFault_x : (s.takeFault c).x = s.x := rfl
@[simp] theorem State.takeFault_cmd : (s.takeFault c).cmd = s.cmd := rfl
@[simp] theorem State.takeFault_busy : (s.takeFault c).busy = false := rfl
@[simp] theorem State.takeFault_done : (s.takeFault c).done = s.done := rfl
@[simp] theorem State.takeFault_err : (s.takeFault c).err = true := rfl
@[simp] theorem State.takeFault_t : (s.takeFault c).t = s.t := rfl
@[simp] theorem State.takeFault_ovr : (s.takeFault c).ovr = s.ovr := rfl
@[simp] theorem State.takeFault_ieDone : (s.takeFault c).ieDone = s.ieDone := rfl
@[simp] theorem State.takeFault_ieErr : (s.takeFault c).ieErr = s.ieErr := rfl
@[simp] theorem State.takeFault_errCode : (s.takeFault c).errCode = c.code := rfl
@[simp] theorem State.takeFault_bs : (s.takeFault c).bs = s.bs := rfl
@[simp] theorem State.takeFault_mlen : (s.takeFault c).mlen = s.mlen := rfl
@[simp] theorem State.takeFault_rounds : (s.takeFault c).rounds = s.rounds := rfl
@[simp] theorem State.takeFault_draws : (s.takeFault c).draws = s.draws := rfl
@[simp] theorem State.takeFault_pending : (s.takeFault c).pending = s.pending := rfl
@[simp] theorem State.takeFault_script : (s.takeFault c).script = s.script := rfl
@[simp] theorem State.takeFault_response : (s.takeFault c).response = s.response := rfl

end takeFault

section writeStatus
variable (s : State) (w : Word)

@[simp] theorem State.writeStatus_nlimb : (s.writeStatus w).nlimb = s.nlimb := rfl
@[simp] theorem State.writeStatus_x : (s.writeStatus w).x = s.x := rfl
@[simp] theorem State.writeStatus_cmd : (s.writeStatus w).cmd = s.cmd := rfl
@[simp] theorem State.writeStatus_busy : (s.writeStatus w).busy = s.busy := rfl
@[simp] theorem State.writeStatus_done : (s.writeStatus w).done = (s.done && !w.getLsbD 1) := rfl
@[simp] theorem State.writeStatus_err : (s.writeStatus w).err = (s.err && !w.getLsbD 2) := rfl
@[simp] theorem State.writeStatus_t : (s.writeStatus w).t = s.t := rfl
@[simp] theorem State.writeStatus_ovr : (s.writeStatus w).ovr = (s.ovr && !w.getLsbD 4) := rfl
@[simp] theorem State.writeStatus_ieDone : (s.writeStatus w).ieDone = s.ieDone := rfl
@[simp] theorem State.writeStatus_ieErr : (s.writeStatus w).ieErr = s.ieErr := rfl
@[simp] theorem State.writeStatus_errCode : (s.writeStatus w).errCode = if w.getLsbD 2 then 0 else s.errCode := rfl
@[simp] theorem State.writeStatus_bs : (s.writeStatus w).bs = s.bs := rfl
@[simp] theorem State.writeStatus_mlen : (s.writeStatus w).mlen = s.mlen := rfl
@[simp] theorem State.writeStatus_rounds : (s.writeStatus w).rounds = s.rounds := rfl
@[simp] theorem State.writeStatus_draws : (s.writeStatus w).draws = s.draws := rfl
@[simp] theorem State.writeStatus_pending : (s.writeStatus w).pending = s.pending := rfl
@[simp] theorem State.writeStatus_script : (s.writeStatus w).script = s.script := rfl
@[simp] theorem State.writeStatus_response : (s.writeStatus w).response = s.response := rfl

end writeStatus

section writeCtrl
variable (s : State) (w : Word)

@[simp] theorem State.writeCtrl_nlimb : (s.writeCtrl w).nlimb = s.nlimb := rfl
@[simp] theorem State.writeCtrl_x : (s.writeCtrl w).x = s.x := rfl
@[simp] theorem State.writeCtrl_cmd : (s.writeCtrl w).cmd = s.cmd := rfl
@[simp] theorem State.writeCtrl_busy : (s.writeCtrl w).busy = s.busy := rfl
@[simp] theorem State.writeCtrl_done : (s.writeCtrl w).done = s.done := rfl
@[simp] theorem State.writeCtrl_err : (s.writeCtrl w).err = s.err := rfl
@[simp] theorem State.writeCtrl_t : (s.writeCtrl w).t = s.t := rfl
@[simp] theorem State.writeCtrl_ovr : (s.writeCtrl w).ovr = s.ovr := rfl
@[simp] theorem State.writeCtrl_ieDone : (s.writeCtrl w).ieDone = w.getLsbD 0 := rfl
@[simp] theorem State.writeCtrl_ieErr : (s.writeCtrl w).ieErr = w.getLsbD 1 := rfl
@[simp] theorem State.writeCtrl_errCode : (s.writeCtrl w).errCode = s.errCode := rfl
@[simp] theorem State.writeCtrl_bs : (s.writeCtrl w).bs = s.bs := rfl
@[simp] theorem State.writeCtrl_mlen : (s.writeCtrl w).mlen = s.mlen := rfl
@[simp] theorem State.writeCtrl_rounds : (s.writeCtrl w).rounds = s.rounds := rfl
@[simp] theorem State.writeCtrl_draws : (s.writeCtrl w).draws = s.draws := rfl
@[simp] theorem State.writeCtrl_pending : (s.writeCtrl w).pending = s.pending := rfl
@[simp] theorem State.writeCtrl_script : (s.writeCtrl w).script = s.script := rfl
@[simp] theorem State.writeCtrl_response : (s.writeCtrl w).response = s.response := rfl

end writeCtrl

section ask
variable (s : State) (lo hi : Nat)

@[simp] theorem State.ask_nlimb : (s.ask lo hi).nlimb = s.nlimb := rfl
@[simp] theorem State.ask_x : (s.ask lo hi).x = s.x := rfl
@[simp] theorem State.ask_cmd : (s.ask lo hi).cmd = s.cmd := rfl
@[simp] theorem State.ask_busy : (s.ask lo hi).busy = s.busy := rfl
@[simp] theorem State.ask_done : (s.ask lo hi).done = s.done := rfl
@[simp] theorem State.ask_err : (s.ask lo hi).err = s.err := rfl
@[simp] theorem State.ask_t : (s.ask lo hi).t = s.t := rfl
@[simp] theorem State.ask_ovr : (s.ask lo hi).ovr = s.ovr := rfl
@[simp] theorem State.ask_ieDone : (s.ask lo hi).ieDone = s.ieDone := rfl
@[simp] theorem State.ask_ieErr : (s.ask lo hi).ieErr = s.ieErr := rfl
@[simp] theorem State.ask_errCode : (s.ask lo hi).errCode = s.errCode := rfl
@[simp] theorem State.ask_bs : (s.ask lo hi).bs = s.bs := rfl
@[simp] theorem State.ask_mlen : (s.ask lo hi).mlen = s.mlen := rfl
@[simp] theorem State.ask_rounds : (s.ask lo hi).rounds = s.rounds := rfl
@[simp] theorem State.ask_draws : (s.ask lo hi).draws = s.draws := rfl
@[simp] theorem State.ask_pending : (s.ask lo hi).pending = some ⟨lo, hi⟩ := rfl
@[simp] theorem State.ask_script : (s.ask lo hi).script = s.script := rfl
@[simp] theorem State.ask_response : (s.ask lo hi).response = s.response := rfl

end ask

section advance
variable (s : State) (rest : List Event)

@[simp] theorem State.advance_nlimb : (s.advance rest).nlimb = s.nlimb := rfl
@[simp] theorem State.advance_x : (s.advance rest).x = s.x := rfl
@[simp] theorem State.advance_cmd : (s.advance rest).cmd = s.cmd := rfl
@[simp] theorem State.advance_busy : (s.advance rest).busy = s.busy := rfl
@[simp] theorem State.advance_done : (s.advance rest).done = s.done := rfl
@[simp] theorem State.advance_err : (s.advance rest).err = s.err := rfl
@[simp] theorem State.advance_t : (s.advance rest).t = s.t := rfl
@[simp] theorem State.advance_ovr : (s.advance rest).ovr = s.ovr := rfl
@[simp] theorem State.advance_ieDone : (s.advance rest).ieDone = s.ieDone := rfl
@[simp] theorem State.advance_ieErr : (s.advance rest).ieErr = s.ieErr := rfl
@[simp] theorem State.advance_errCode : (s.advance rest).errCode = s.errCode := rfl
@[simp] theorem State.advance_bs : (s.advance rest).bs = s.bs := rfl
@[simp] theorem State.advance_mlen : (s.advance rest).mlen = s.mlen := rfl
@[simp] theorem State.advance_rounds : (s.advance rest).rounds = s.rounds := rfl
@[simp] theorem State.advance_draws : (s.advance rest).draws = s.draws := rfl
@[simp] theorem State.advance_pending : (s.advance rest).pending = s.pending := rfl
@[simp] theorem State.advance_script : (s.advance rest).script = rest := rfl
@[simp] theorem State.advance_response : (s.advance rest).response = none := rfl

end advance

section resetBlock
variable (s : State)

@[simp] theorem State.resetBlock_nlimb : s.resetBlock.nlimb = s.nlimb := rfl
@[simp] theorem State.resetBlock_x : s.resetBlock.x = .zero := rfl
@[simp] theorem State.resetBlock_cmd : s.resetBlock.cmd = 0 := rfl
@[simp] theorem State.resetBlock_busy : s.resetBlock.busy = false := rfl
@[simp] theorem State.resetBlock_done : s.resetBlock.done = false := rfl
@[simp] theorem State.resetBlock_err : s.resetBlock.err = false := rfl
@[simp] theorem State.resetBlock_t : s.resetBlock.t = false := rfl
@[simp] theorem State.resetBlock_ovr : s.resetBlock.ovr = false := rfl
@[simp] theorem State.resetBlock_ieDone : s.resetBlock.ieDone = false := rfl
@[simp] theorem State.resetBlock_ieErr : s.resetBlock.ieErr = false := rfl
@[simp] theorem State.resetBlock_errCode : s.resetBlock.errCode = 0 := rfl
@[simp] theorem State.resetBlock_bs : s.resetBlock.bs = 0 := rfl
@[simp] theorem State.resetBlock_mlen : s.resetBlock.mlen = 0 := rfl
@[simp] theorem State.resetBlock_rounds : s.resetBlock.rounds = Config.defaultRounds := rfl
@[simp] theorem State.resetBlock_draws : s.resetBlock.draws = [] := rfl
@[simp] theorem State.resetBlock_pending : s.resetBlock.pending = none := rfl
@[simp] theorem State.resetBlock_script : s.resetBlock.script = s.script := rfl
@[simp] theorem State.resetBlock_response : s.resetBlock.response = none := rfl

end resetBlock

section respond
variable (s : State) (a : Response)

@[simp] theorem State.respond_nlimb : (s.respond a).nlimb = s.nlimb := rfl
@[simp] theorem State.respond_x : (s.respond a).x = s.x := rfl
@[simp] theorem State.respond_cmd : (s.respond a).cmd = s.cmd := rfl
@[simp] theorem State.respond_busy : (s.respond a).busy = s.busy := rfl
@[simp] theorem State.respond_done : (s.respond a).done = s.done := rfl
@[simp] theorem State.respond_err : (s.respond a).err = s.err := rfl
@[simp] theorem State.respond_t : (s.respond a).t = s.t := rfl
@[simp] theorem State.respond_ovr : (s.respond a).ovr = s.ovr := rfl
@[simp] theorem State.respond_ieDone : (s.respond a).ieDone = s.ieDone := rfl
@[simp] theorem State.respond_ieErr : (s.respond a).ieErr = s.ieErr := rfl
@[simp] theorem State.respond_errCode : (s.respond a).errCode = s.errCode := rfl
@[simp] theorem State.respond_bs : (s.respond a).bs = s.bs := rfl
@[simp] theorem State.respond_mlen : (s.respond a).mlen = s.mlen := rfl
@[simp] theorem State.respond_rounds : (s.respond a).rounds = s.rounds := rfl
@[simp] theorem State.respond_draws : (s.respond a).draws = s.draws := rfl
@[simp] theorem State.respond_pending : (s.respond a).pending = s.pending := rfl
@[simp] theorem State.respond_script : (s.respond a).script = s.script := rfl
@[simp] theorem State.respond_response : (s.respond a).response = some a := rfl

end respond

end Sys2Proof.Machine
end

