-- ==== Sys2Proof/Laws/Window.lean ====
section
/-! SUPPORT. The small lemmas of limbs (spec/20_memory.md R74, R76): what a limb is as a number, that writing one limb
gives that limb and leaves every other, and that it keeps the value within the register. -/

namespace Sys2Proof.Machine

theorem limb_toNat (v j : Nat) : (limb v j).toNat = v / 2 ^ (32 * j) % 2 ^ 32 := by
  simp [limb]

/-- The value's digits above, at and below limb `j`. -/
theorem setLimb_eq (v j : Nat) (w : Word) :
    setLimb v j w = 2 ^ (32 * j) * (2 ^ 32 * (v / 2 ^ (32 * j) / 2 ^ 32) + w.toNat) + v % 2 ^ (32 * j) := by
  have h1 := Nat.div_add_mod v (2 ^ (32 * j))
  have h2 := Nat.div_add_mod (v / 2 ^ (32 * j)) (2 ^ 32)
  rw [setLimb, limb_toNat]
  generalize v / 2 ^ (32 * j) % 2 ^ 32 = l at *
  generalize v / 2 ^ (32 * j) / 2 ^ 32 = h at *
  generalize v % 2 ^ (32 * j) = m at *
  rw [← h2] at h1
  generalize 2 ^ (32 * j) = p at *
  have : v = l * p + (p * (2 ^ 32 * h) + m) := by rw [← h1]; ring
  rw [this, Nat.add_sub_cancel_left]; ring

theorem limb_setLimb_same (v j : Nat) (w : Word) : limb (setLimb v j w) j = w := by
  apply BitVec.eq_of_toNat_eq
  rw [limb_toNat, setLimb_eq, Nat.mul_add_div (by positivity), Nat.div_eq_of_lt (Nat.mod_lt _ (by positivity)),
    Nat.add_zero, Nat.mul_add_mod, Nat.mod_eq_of_lt w.isLt]

theorem limb_setLimb_other (v : Nat) {j k : Nat} (w : Word) (h : k ≠ j) :
    limb (setLimb v j w) k = limb v k := by
  apply BitVec.eq_of_toNat_eq
  rw [limb_toNat, limb_toNat]
  rcases Nat.lt_or_gt_of_ne h with hk | hk
  · have hp : 2 ^ (32 * j) = 2 ^ (32 * k) * (2 ^ 32 * 2 ^ (32 * (j - k - 1))) := by
      rw [← pow_add, ← pow_add]; congr 1; omega
    have hv := Nat.div_add_mod v (2 ^ (32 * j))
    rw [setLimb_eq]
    conv_rhs => rw [← hv]
    rw [hp, mul_assoc, Nat.mul_add_div (by positivity), mul_assoc (2 ^ (32 * k)), Nat.mul_add_div (by positivity),
      mul_assoc, Nat.mul_add_mod, mul_assoc (2 ^ 32), Nat.mul_add_mod]
  · have hp : 2 ^ (32 * k) = 2 ^ (32 * j) * 2 ^ 32 * 2 ^ (32 * (k - j - 1)) := by
      rw [← pow_add, ← pow_add]; congr 1; omega
    rw [setLimb_eq, hp, ← Nat.div_div_eq_div_mul, ← Nat.div_div_eq_div_mul, ← Nat.div_div_eq_div_mul v,
      ← Nat.div_div_eq_div_mul v, Nat.mul_add_div (by positivity), Nat.div_eq_of_lt (Nat.mod_lt _ (by positivity)),
      Nat.add_zero, Nat.mul_add_div (by positivity), Nat.div_eq_of_lt w.isLt, Nat.add_zero]

theorem setLimb_lt {v n j : Nat} (w : Word) (hv : v < 2 ^ (32 * n)) (hj : j < n) : setLimb v j w < 2 ^ (32 * n) := by
  have hp : 2 ^ (32 * n) = 2 ^ (32 * j) * (2 ^ 32 * 2 ^ (32 * (n - j - 1))) := by
    rw [← pow_add, ← pow_add]; congr 1; omega
  have hm : v % 2 ^ (32 * j) < 2 ^ (32 * j) := Nat.mod_lt _ (by positivity)
  have hq : v / 2 ^ (32 * j) / 2 ^ 32 < 2 ^ (32 * (n - j - 1)) := by
    rw [hp] at hv
    exact Nat.div_lt_of_lt_mul (Nat.div_lt_of_lt_mul hv)
  have hw := w.isLt
  rw [setLimb_eq, hp]
  generalize v / 2 ^ (32 * j) / 2 ^ 32 = h at *
  generalize 2 ^ (32 * (n - j - 1)) = q at *
  have h1 : 2 ^ 32 * h + w.toNat + 1 ≤ 2 ^ 32 * q := by omega
  calc _ < 2 ^ (32 * j) * (2 ^ 32 * h + w.toNat) + 2 ^ (32 * j) := by omega
    _ = 2 ^ (32 * j) * (2 ^ 32 * h + w.toNat + 1) := by ring
    _ ≤ _ := Nat.mul_le_mul_left _ h1


/-- A transaction that is not an aligned 32-bit one reaches nothing (R80). -/
theorem resolve_unaligned {nlimb addr size : Nat} (h : size ≠ 4 ∨ addr % 4 ≠ 0) : resolve nlimb addr size = none := by
  rw [resolve, if_pos h]

/-- Only transactions of size 4 reach anything (R80). -/
theorem resolve_size {nlimb addr size : Nat} {g : Target} (h : resolve nlimb addr size = some g) : size = 4 := by
  by_contra hs
  rw [resolve_unaligned (.inl hs)] at h
  cases h

/-- A control register's offset reaches it (R36). -/
theorem resolve_offset (nlimb : Nat) (c : CtlReg) : resolve nlimb c.offset 4 = some (.ctl c) := by
  cases c <;> simp [resolve, CtlReg.offset, CtlReg.ofIndex]

/-- Only its offset reaches a control register. -/
theorem offset_of_resolve {nlimb addr : Nat} {c : CtlReg} (h : resolve nlimb addr 4 = some (.ctl c)) :
    addr = c.offset := by
  rw [resolve] at h
  split at h
  · cases h
  split at h
  · rename_i h1 h2
    injection h with h
    injection h with h
    push Not at h1
    obtain ⟨k, hk⟩ : ∃ k, addr = 4 * k := ⟨addr / 4, by omega⟩
    have h8 : k < 8 := by omega
    rw [hk, Nat.mul_div_cancel_left k (by decide)] at h
    subst h hk
    interval_cases k <;> rfl
  · split at h <;> cases h

/-- A limb stands at or above 0x1000 (R74). -/
theorem le_of_resolve_limb {nlimb addr j : Nat} {r : Reg} (h : resolve nlimb addr 4 = some (.limb r j)) :
    0x1000 ≤ addr := by
  rw [resolve] at h
  split at h
  · cases h
  split at h
  · cases h
  split at h
  · omega
  · cases h

/-- What a store while BUSY does: a drop, the STATUS or CTRL write, or nothing for ERR and PARAM (R82). -/
theorem store_busy {s : State} (w : Word) (g : Target) (hb : s.busy = true) :
    s.store w g = s.dropWrite ∨ (g = .ctl .status ∧ s.store w g = s.writeStatus w) ∨
      (g = .ctl .ctrl ∧ s.store w g = s.writeCtrl w) ∨ ((g = .ctl .err ∨ g = .ctl .param) ∧ s.store w g = s) := by
  cases g with
  | ctl c => cases c <;> simp [State.store, State.whenIdle, State.writeCmd, hb]
  | limb r j => simp [State.store, State.whenIdle, hb]

/-- Everything a store can do, one constructor for each way (R37, R38, R47, R82). -/
inductive StoreTo (s : State) (w : Word) : Target → State → Prop
  | dropBusy (g) : s.busy = true → g ≠ .ctl .status → g ≠ .ctl .ctrl → g ≠ .ctl .err → g ≠ .ctl .param →
      StoreTo s w g s.dropWrite
  | dropErr : s.busy = false → s.err = true → StoreTo s w (.ctl .cmd) s.dropWrite
  | accept : s.busy = false → s.err = false → StoreTo s w (.ctl .cmd) (s.accept w)
  | status : StoreTo s w (.ctl .status) (s.writeStatus w)
  | ctrl : StoreTo s w (.ctl .ctrl) (s.writeCtrl w)
  | err : StoreTo s w (.ctl .err) s
  | param : StoreTo s w (.ctl .param) s
  | bs : s.busy = false → StoreTo s w (.ctl .bs) { s with bs := w }
  | mlen : s.busy = false → StoreTo s w (.ctl .mlen) { s with mlen := w }
  | rounds : s.busy = false → StoreTo s w (.ctl .rounds) { s with rounds := w }
  | limb (r j) : s.busy = false → StoreTo s w (.limb r j) (s.setReg r (setLimb (s.reg r) j w))

/-- Every store is one of these. -/
theorem storeTo_store (s : State) (w : Word) (g : Target) : StoreTo s w g (s.store w g) := by
  by_cases hb : s.busy = true
  · have hd : ∀ f, s.whenIdle f = s.dropWrite := fun f => by rw [State.whenIdle, if_pos hb]
    have hc : s.writeCmd w = s.dropWrite := by rw [State.writeCmd, if_pos (.inl hb)]
    cases g with
    | ctl c =>
      cases c <;> simp only [State.store, hd, hc] <;> constructor <;> simp [hb]
    | limb r j =>
      rw [State.store, hd]
      exact .dropBusy _ hb (by simp) (by simp) (by simp) (by simp)
  · have hi : ∀ f, s.whenIdle f = f s := fun f => by rw [State.whenIdle, if_neg hb]
    rw [Bool.not_eq_true] at hb
    cases g with
    | ctl c =>
      cases c with
      | cmd =>
        rw [State.store, State.writeCmd]
        cases he : s.err with
        | true => rw [if_pos (.inr rfl)]; exact .dropErr hb he
        | false => rw [if_neg (by simp [hb])]; exact .accept hb he
      | status => exact .status
      | ctrl => exact .ctrl
      | err => exact .err
      | bs => rw [State.store, hi]; exact .bs hb
      | mlen => rw [State.store, hi]; exact .mlen hb
      | rounds => rw [State.store, hi]; exact .rounds hb
      | param => exact .param
    | limb r j => rw [State.store, hi]; exact .limb r j hb

end Sys2Proof.Machine
end

