-- ==== Sys2Proof/Laws/Step.lean ====
section
/-! SUPPORT. What the shared operations and one step can do, each said once: an evaluation settled, a command executed, a
host write, a move, a step. Later proofs cite these and unfold nothing. -/

namespace Sys2Proof.Machine

/-- Executing a command settles its evaluation, whatever the command: there is no other outcome. -/
theorem exec_eq (i : Instr) (s : State) : exec i s = .next (s.settle (evaluate i s)) := by
  cases i <;> rfl

/-- What settling does: a Complete retire, a Fault retire, or a request. -/
theorem settle_cases (s : State) (ev : Evaluation) :
    (∃ u, ev = .complete u ∧ s.settle ev = s.complete u) ∨ (∃ c, ev = .fault c ∧ s.settle ev = s.takeFault c) ∨
      ∃ lo hi, ev = .needDraw lo hi ∧ s.settle ev = s.ask lo hi := by
  cases ev with
  | complete u => exact .inl ⟨u, rfl, rfl⟩
  | fault c => exact .inr (.inl ⟨c, rfl, rfl⟩)
  | needDraw lo hi => exact .inr (.inr ⟨lo, hi, rfl, rfl⟩)

/-- A Complete retire leaves everything but the operand registers, BS and T as CompletedFrom says. -/
theorem complete_completedFrom (s : State) (u : Updates) : CompletedFrom s (s.complete u) :=
  ⟨rfl, rfl, rfl, rfl, rfl, rfl, rfl, rfl, rfl, rfl, rfl, rfl, rfl, rfl, rfl⟩

/-- A Fault retire writes BUSY, ERR and the code and nothing else. -/
theorem takeFault_faultedFrom (s : State) (c : FaultCode) : FaultedFrom s (s.takeFault c) c.code :=
  ⟨rfl, rfl, rfl, rfl, rfl, rfl, rfl, rfl, rfl, rfl, rfl, rfl, rfl, rfl, rfl, rfl, rfl, rfl⟩

/-- The code of a fault is never 0 (R260). -/
theorem FaultCode.code_ne_zero (c : FaultCode) : c.code ≠ 0#8 := by cases c <;> decide

/-- The codes are 1 to 6 (R260). -/
theorem FaultCode.code_le (c : FaultCode) : 1 ≤ c.code.toNat ∧ c.code.toNat ≤ 6 := by cases c <;> decide

/-- The engine's turn: nothing while idle or waiting, ILLEGAL for a word that is no command, else the command. -/
theorem engineTurn_cases (s : State) :
    ((s.busy = false ∨ s.pending ≠ none) ∧ engineTurn s = .next s) ∨
      (s.busy = true ∧ s.pending = none ∧
        ((∃ r, decode s.cmd = .error r ∧ engineTurn s = .next (s.takeFault .illegal)) ∨
          ∃ i, decode s.cmd = .ok i ∧ engineTurn s = .next (s.settle (evaluate i s)))) := by
  by_cases hb : s.busy = true
  · cases hp : s.pending with
    | some q => exact .inl ⟨.inr (by simp), by simp [engineTurn, State.engineReady, hp]⟩
    | none =>
      refine .inr ⟨hb, rfl, ?_⟩
      have he : engineTurn s = runCommand s := by simp [engineTurn, State.engineReady, hb, hp]
      cases hd : decode s.cmd with
      | error r => exact .inl ⟨r, rfl, by rw [he, runCommand, hd]⟩
      | ok i => exact .inr ⟨i, rfl, by rw [he, runCommand, hd]; exact exec_eq i s⟩
  · rw [Bool.not_eq_true] at hb
    exact .inl ⟨.inl hb, by simp [engineTurn, State.engineReady, hb]⟩

/-- What a host write does: nothing but an ERROR answer; or, answered OKAY, a drop, an acceptance, a STATUS or CTRL write,
nothing (ERR, PARAM), or a store of BS, MLEN, ROUNDS or a limb while idle. -/
theorem hostWrite_cases (s : State) (addr size : Nat) (w : Word) :
    (resolve s.nlimb addr size = none ∧ s.hostWrite addr size w = s.respond .error) ∨
      ∃ g, resolve s.nlimb addr size = some g ∧ s.hostWrite addr size w = (s.store w g).respond .okay := by
  cases h : resolve s.nlimb addr size with
  | none => exact .inl ⟨rfl, by simp [State.hostWrite, h]⟩
  | some g => exact .inr ⟨g, rfl, by simp [State.hostWrite, h]⟩

/-- What a host read does: it sets the answer and nothing else (R83). -/
theorem hostRead_cases (s : State) (addr size : Nat) :
    ∃ a, s.hostRead addr size = s.respond a := by
  cases h : resolve s.nlimb addr size with
  | none => exact ⟨.error, by simp [State.hostRead, h]⟩
  | some g => exact ⟨.data (s.load g), by simp [State.hostRead, h]⟩

/-- A step with the engine's move next is the engine's turn. -/
theorem step_engine {s : State} {rest : List Event} (h : EngineMoves s rest) : step s = engineTurn (s.advance rest) := by
  rcases h with h | ⟨h, rfl⟩
  · rw [step, h]
    rfl
  · rw [step, h]

/-- A step is the engine's turn or the move of another agent, taken after the move leaves the list. -/
theorem step_cases (s : State) :
    (∃ rest, EngineMoves s rest ∧ step s = engineTurn (s.advance rest)) ∨
      (∃ a n rest, s.script = .hostRead a n :: rest ∧ step s = .next ((s.advance rest).hostRead a n)) ∨
      (∃ a n w rest, s.script = .hostWrite a n w :: rest ∧ step s = .next ((s.advance rest).hostWrite a n w)) ∨
      (∃ v rest, s.script = .answer v :: rest ∧ step s = .next ((s.advance rest).takeAnswer v)) ∨
      ∃ rest, s.script = .reset :: rest ∧ step s = .next (s.advance rest).resetBlock := by
  cases hs : s.script with
  | nil => exact .inl ⟨[], .inr ⟨hs, rfl⟩, step_engine (.inr ⟨hs, rfl⟩)⟩
  | cons e rest =>
    have hstep : step s = occur e (s.advance rest) := by rw [step, hs]
    cases e with
    | hostRead a n => exact .inr (.inl ⟨a, n, rest, rfl, hstep⟩)
    | hostWrite a n w => exact .inr (.inr (.inl ⟨a, n, w, rest, rfl, hstep⟩))
    | answer v => exact .inr (.inr (.inr (.inl ⟨v, rest, rfl, hstep⟩)))
    | engine => exact .inl ⟨rest, .inl hs, hstep⟩
    | reset => exact .inr (.inr (.inr (.inr ⟨rest, rfl, hstep⟩)))

/-- What a command answers does not depend on the moves to come. -/
@[simp] theorem evaluate_advance (i : Instr) (s : State) (rest : List Event) :
    evaluate i (s.advance rest) = evaluate i s := by
  cases i <;> rfl

/-- Everything a step can do, one constructor for each way (R9, R55 to R57, R71, R160, R300). -/
inductive StepTo (s : State) : State → Prop
  | wait (rest) : EngineMoves s rest → (s.busy = false ∨ s.pending ≠ none) → StepTo s (s.advance rest)
  | illegal (rest r) : EngineMoves s rest → s.busy = true → s.pending = none → decode s.cmd = .error r →
      StepTo s ((s.advance rest).takeFault .illegal)
  | complete (rest i u) : EngineMoves s rest → s.busy = true → s.pending = none → decode s.cmd = .ok i →
      evaluate i s = .complete u → StepTo s ((s.advance rest).complete u)
  | fault (rest i c) : EngineMoves s rest → s.busy = true → s.pending = none → decode s.cmd = .ok i →
      evaluate i s = .fault c → StepTo s ((s.advance rest).takeFault c)
  | ask (rest i lo hi) : EngineMoves s rest → s.busy = true → s.pending = none → decode s.cmd = .ok i →
      evaluate i s = .needDraw lo hi → StepTo s ((s.advance rest).ask lo hi)
  | read (a n rest x) : s.script = .hostRead a n :: rest → StepTo s ((s.advance rest).respond x)
  | writeError (a n w rest) : s.script = .hostWrite a n w :: rest → resolve s.nlimb a n = none →
      StepTo s ((s.advance rest).respond .error)
  | writeOkay (a w rest g s₁) : s.script = .hostWrite a 4 w :: rest → resolve s.nlimb a 4 = some g →
      StoreTo (s.advance rest) w g s₁ → StepTo s (s₁.respond .okay)
  | answer (v rest q) : s.script = .answer v :: rest → s.pending = some q →
      StepTo s { s.advance rest with draws := s.draws ++ [v % 2 ^ s.width], pending := none }
  | ignore (v rest) : s.script = .answer v :: rest → s.pending = none → StepTo s (s.advance rest)
  | reset (rest) : s.script = .reset :: rest → StepTo s (s.advance rest).resetBlock

/-- Every step is one of these. -/
theorem stepTo_of_step {s s' : State} (hs : step s = .next s') : StepTo s s' := by
  rcases step_cases s with ⟨r, hm, he⟩ | ⟨a, n, r, hm, he⟩ | ⟨a, n, w, r, hm, he⟩ | ⟨v, r, hm, he⟩ | ⟨r, hm, he⟩ <;>
    rw [he] at hs
  · rcases engineTurn_cases (s.advance r) with ⟨h1, h⟩ | ⟨hb, hp, ⟨_, h1, h⟩ | ⟨i, h1, h⟩⟩ <;> rw [h] at hs <;>
      cases hs
    · exact .wait r hm h1
    · exact .illegal r _ hm hb hp h1
    · rw [evaluate_advance]
      rcases settle_cases (s.advance r) (evaluate i s) with ⟨_, h2, h⟩ | ⟨_, h2, h⟩ | ⟨_, _, h2, h⟩ <;> rw [h]
      · exact .complete r i _ hm hb hp h1 h2
      · exact .fault r i _ hm hb hp h1 h2
      · exact .ask r i _ _ hm hb hp h1 h2
  · cases hs
    obtain ⟨x, hx⟩ := hostRead_cases (s.advance r) a n
    rw [hx]
    exact .read a n r x hm
  · cases hs
    rcases hostWrite_cases (s.advance r) a n w with ⟨hg, hx⟩ | ⟨g, hg, hx⟩ <;> rw [hx]
    · exact .writeError a n w r hm hg
    · obtain rfl := resolve_size hg
      exact .writeOkay a w r g _ hm hg (storeTo_store _ _ _)
  · cases hs
    rw [State.takeAnswer]
    split
    · exact .ignore v r hm (by assumption)
    · exact .answer v r _ hm (by assumption)
  · cases hs
    exact .reset r hm

end Sys2Proof.Machine
end

