-- ==== Sys2Proof/Laws/HostProgram.lean ====
section
/-! SUPPORT. The small lemmas of a host program run on the block: moves one after another, one read and one write of a
control register, one load, one poll of a WAIT (spec/30_encoding.md R119, R120). -/

namespace Sys2Proof.Machine

@[simp] theorem play_nil (s : State) : play [] s = s := rfl

/-- One move, when its step is known. -/
theorem play_cons {e : Event} {s s' : State} (rest : List Event) (h : step { s with script := [e] } = .next s') :
    play (e :: rest) s = play rest s' := by
  rw [play, h]

theorem play_append (l m : List Event) (s : State) : play (l ++ m) s = play m (play l s) := by
  induction l generalizing s with
  | nil => rfl
  | cons e l ih =>
    cases h : step { s with script := [e] } with
    | next s' => rw [List.cons_append, play_cons _ h, play_cons _ h, ih]
    | fault r => cases r
    | refused r =>
      rcases step_cases { s with script := [e] } with ⟨r', _, he⟩ | ⟨_, _, _, _, he⟩ | ⟨_, _, _, _, _, he⟩ |
        ⟨_, _, _, he⟩ | ⟨_, _, he⟩ <;> rw [he] at h
      · rcases engineTurn_cases (State.advance { s with script := [e] } r') with ⟨_, ht⟩ | ⟨_, _, ⟨_, _, ht⟩ | ⟨_, _, ht⟩⟩ <;>
          rw [ht] at h <;> cases h
      all_goals cases h

/-- A read of a control register, as a host line. -/
theorem play_lineRd (c : CtlReg) (s : State) :
    play [lineRd c] s = { s with script := [], response := some (.data (s.load (.ctl c))) } := by
  have h : step { s with script := [lineRd c] } = .next { s with script := [], response := some (.data (s.load (.ctl c))) } := by
    show Host.Outcome.next (State.hostRead _ _ _) = _
    rw [State.hostRead, State.advance_nlimb, resolve_offset]
    cases c <;> rfl
  rw [play_cons _ h, play_nil]

/-- A write of a control register, as a host line. -/
theorem play_lineWr (c : CtlReg) (w : Word) (s : State) :
    play [lineWr c w] s = ((s.advance []).store w (.ctl c)).respond .okay := by
  have h : step { s with script := [lineWr c w] } = .next (((s.advance []).store w (.ctl c)).respond .okay) := by
    show Host.Outcome.next (State.hostWrite _ _ _ _) = _
    rw [State.hostWrite, State.advance_nlimb, resolve_offset]
    rfl
  rw [play_cons _ h, play_nil]

/-- The bits of STATUS as a word (R38). -/
theorem statusWord_bits (s : State) :
    s.statusWord.getLsbD 0 = s.busy ∧ s.statusWord.getLsbD 1 = s.done ∧ s.statusWord.getLsbD 2 = s.err ∧
      s.statusWord.getLsbD 3 = s.t ∧ s.statusWord.getLsbD 4 = s.ovr := by
  simp only [State.statusWord, BitVec.getLsbD_append, BitVec.getLsbD_ofBool]
  simp

/-- One poll of a WAIT: the others' moves, the read, and the end if BUSY is 0. -/
theorem waitFor_cons (others : List Event) (more : Polls) (s : State) :
    waitFor (others :: more) s =
      if (play others s).busy = true then waitFor more (play (others ++ [lineRd .status]) s)
      else some (play (others ++ [lineRd .status]) s, (play others s).statusWord) := by
  rw [waitFor, play_append, play_lineRd]
  simp only [State.load, (statusWord_bits (play others s)).1]

/-- What a load can do: the limb writes of R120 for a number that fits, a stop for one that does not (log 20). -/
theorem loadReg_cases (r : Reg) (v : Nat) (s : State) :
    (v < 2 ^ s.width ∧ loadReg r v s = .ok (play (lineLdx s.nlimb r v) s)) ∨
      (2 ^ s.width ≤ v ∧ loadReg r v s = .error .tooLarge) := by
  rcases Nat.lt_or_ge v (2 ^ s.width) with h | h
  · exact .inl ⟨h, if_pos h⟩
  · exact .inr ⟨h, if_neg (Nat.not_lt.2 h)⟩

/-- What the write of a message's length can do: MLEN of R234 for one that fits, a stop for one that does not (log 20). -/
theorem writeLength_cases (len : Nat) (s : State) :
    (len < 2 ^ 32 ∧ writeLength len s = .ok (play [lineWr .mlen (BitVec.ofNat 32 len)] s)) ∨
      (2 ^ 32 ≤ len ∧ writeLength len s = .error .tooLarge) := by
  rcases Nat.lt_or_ge len (2 ^ 32) with h | h
  · exact .inl ⟨h, if_pos h⟩
  · exact .inr ⟨h, if_neg (Nat.not_lt.2 h)⟩

end Sys2Proof.Machine
end

