-- ==== Sys2Proof/Laws/PerInstr.lean ====
section
/-! SUPPORT. Statements made per instruction, about the instruction as syntax, one lemma per constructor of Instr.
EncodesFields: the encoder's word, split at the bit positions of spec/30_encoding.md R101, has the fields of the command,
unused ones 0 (R103). -/

namespace Sys2Proof.Laws.EncodesFields

/-- The word of a command has the command's fields and no other bit set. -/
def Statement (i : Instr) : Prop := fieldsOf (encode i) = i.fields

theorem modexp (rd rs1 rs2 rs3 : Reg) : Statement (.modexp rd rs1 rs2 rs3) := by
  rw [Statement, encode_eq_assemble, fieldsOf_assemble]
theorem mrw (rs1 rs2 : Reg) : Statement (.mrw rs1 rs2) := by
  rw [Statement, encode_eq_assemble, fieldsOf_assemble]
theorem mrt (rs1 : Reg) : Statement (.mrt rs1) := by
  rw [Statement, encode_eq_assemble, fieldsOf_assemble]
theorem gcd (rd rs1 rs2 : Reg) : Statement (.gcd rd rs1 rs2) := by
  rw [Statement, encode_eq_assemble, fieldsOf_assemble]
theorem modinv (rd rs1 rs2 : Reg) : Statement (.modinv rd rs1 rs2) := by
  rw [Statement, encode_eq_assemble, fieldsOf_assemble]
theorem pad (rd rs1 : Reg) : Statement (.pad rd rs1) := by
  rw [Statement, encode_eq_assemble, fieldsOf_assemble]
theorem unpad (rd rs1 : Reg) : Statement (.unpad rd rs1) := by
  rw [Statement, encode_eq_assemble, fieldsOf_assemble]
theorem blksz (rs1 : Reg) : Statement (.blksz rs1) := by
  rw [Statement, encode_eq_assemble, fieldsOf_assemble]
theorem lenchk : Statement .lenchk := by
  rw [Statement, encode_eq_assemble, fieldsOf_assemble]

end Sys2Proof.Laws.EncodesFields
end

