-- ==== Sys2Proof/Tests/Slice0.lean ====
section
/-! SUPPORT. Tests of single operations and single steps, their expected values from spec/30_encoding.md R109 and
spec/95_test_vectors.md, and for each statement with hypotheses a named witness that meets them, clause by clause. -/

namespace Sys2Proof.Tests.Slice0

open Sys2Proof Sys2Proof.Machine

/-- What a step that answers a next state shows of it. -/
def seen {α : Type} (f : State → α) : Result → Option α
  | .next s => some (f s)
  | .fault _ => none
  | .refused _ => none

/-- A reset block with NLIMB = 4, W = 128 (the instance of 95_test_vectors.md part 3), with these registers and coming
moves. -/
def idle (x : OperandRegs) (script : List Event) : State := { State.resetOf 4 with x := x, script := script }

/-- The same with the command word `w` in flight. -/
def flying (w : Word) (x : OperandRegs) (script : List Event) : State :=
  { idle x script with cmd := w, busy := true }

/-- Numbers of 95_test_vectors.md, one to a register. -/
def regs : OperandRegs := ⟨4, 13, 497, 17, 3120, 221, 174, 0⟩

/-! ## WellFormed: a term that each check refuses -/

/-- Opcode 0x0A is unknown (R107). -/
theorem test_wf_refuses_opcode : (⟨0, 0, 0, 0, 0, 0x0A⟩ : Fields).opcodeKnown = false := by decide
/-- Opcode 0x00 is unknown (R107). -/
theorem test_wf_refuses_opcode_zero : (⟨0, 0, 0, 0, 0, 0⟩ : Fields).wellFormed = false := by decide
/-- A bit of 31:20 set (R103). -/
theorem test_wf_refuses_zero_field :
    (⟨1, 0, 0, 0, 0, 1⟩ : Fields).zeroClear = false ∧ (⟨1, 0, 0, 0, 0, 1⟩ : Fields).wellFormed = false := by decide
/-- LENCHK with rd = 1, MRT with rs3 = 1: an unused field set (R103). -/
theorem test_wf_refuses_unused_field :
    (⟨0, 0, 0, 0, 1, 9⟩ : Fields).unusedClear = false ∧ (⟨0, 1, 0, 1, 0, 3⟩ : Fields).wellFormed = false := by decide
/-- W = 32 and W = 2^21 are outside R10. -/
theorem test_wf_refuses_nlimb : nlimbOk 1 = false ∧ nlimbOk 65536 = false := by decide

/-! ## Decoding, by words written out from R101 and R109 -/

/-- opcode 0x01, rd 4, rs1 1, rs2 2, rs3 3, bit by bit. -/
theorem test_decode_modexp : decode 0b000000000000_011_010_001_100_00000001#32 = .ok (.modexp .x4 .x1 .x2 .x3) := by
  decide
theorem test_decode_mrw : decode 0b000000000000_000_010_001_000_00000010#32 = .ok (.mrw .x1 .x2) := by decide
theorem test_decode_mrt : decode 0b000000000000_000_000_001_000_00000011#32 = .ok (.mrt .x1) := by decide
theorem test_decode_gcd : decode 0b000000000000_000_010_001_000_00000100#32 = .ok (.gcd .x0 .x1 .x2) := by decide
theorem test_decode_modinv : decode 0b000000000000_000_010_001_011_00000101#32 = .ok (.modinv .x3 .x1 .x2) := by decide
theorem test_decode_pad : decode 0b000000000000_000_000_001_010_00000110#32 = .ok (.pad .x2 .x1) := by decide
theorem test_decode_unpad : decode 0b000000000000_000_000_101_110_00000111#32 = .ok (.unpad .x6 .x5) := by decide
theorem test_decode_blksz : decode 0b000000000000_000_000_011_000_00001000#32 = .ok (.blksz .x3) := by decide
theorem test_decode_lenchk : decode 0b000000000000_000_000_000_000_00001001#32 = .ok .lenchk := by decide
/-- R101's sum: 0x01 + 7*2^8 + 7*2^11 + 7*2^14 + 7*2^17. -/
theorem test_encode_modexp_all_sevens : encode (.modexp .x7 .x7 .x7 .x7) = 0x000FFF01#32 := by decide
theorem test_decode_table_word :
    decodeTableWord 32 0x00086E01 = some (.modexp .x6 .x5 .x1 .x4) ∧ decodeTableWord 32 0x0000000A = none := by decide

/-! ## One command each, from 95_test_vectors.md -/

/-- 4^13 mod 497 = 445 (R132). -/
theorem test_modexp_value :
    seen (fun s => (s.reg .x4, s.done, s.busy)) (exec (.modexp .x4 .x0 .x1 .x2) (flying 0x00044401 regs [])) =
      some (445, true, false) := by decide +kernel
/-- Program P4: modulus 0, code 2, rd kept. -/
theorem test_modexp_modulus_zero :
    seen (fun s => (s.errCode, s.reg .x3, s.err, s.done)) (exec (.modexp .x3 .x0 .x1 .x7) (flying 0x000E4301 regs [])) =
      some (2, 17, true, false) := by decide +kernel
/-- 174 is a strong liar for 221 (R156). -/
theorem test_mrw_liar_passes :
    seen (fun s => s.t) (exec (.mrw .x5 .x6) (flying 0 regs [])) = some true := by decide +kernel
/-- n = 15, a = 4: COMPOSITE (R158 b). -/
theorem test_mrw_composite :
    seen (fun s => (s.t, s.done)) (exec (.mrw .x0 .x1) (flying 0 ⟨15, 4, 0, 0, 0, 0, 0, 0⟩ [])) = some (false, true) := by
  decide +kernel
/-- Program P3: after 174 the second request is again (2, 219). -/
theorem test_mrt_asks_again :
    seen (fun s => (s.pending, s.busy)) (exec (.mrt .x5) { flying 0 regs [] with rounds := 2, draws := [174] }) =
      some (some ⟨2, 219⟩, true) := by decide +kernel
/-- Program P3: 137 makes the second round COMPOSITE, T = 0. -/
theorem test_mrt_second_round_composite :
    seen (fun s => (s.t, s.done)) (exec (.mrt .x5) { flying 0 regs [] with rounds := 2, draws := [174, 137], t := true }) =
      some (false, true) := by decide +kernel
theorem test_gcd_coprime :
    seen (fun s => (s.reg .x0, s.t)) (exec (.gcd .x0 .x3 .x4) (flying 0 regs [])) = some (1, true) := by decide +kernel
/-- gcd(0, 5) = 5, T = 0, the destination one of the sources. -/
theorem test_gcd_zero_operand :
    seen (fun s => (s.reg .x1, s.t)) (exec (.gcd .x1 .x0 .x1) (flying 0 ⟨0, 5, 0, 0, 0, 0, 0, 0⟩ [])) =
      some (5, false) := by decide +kernel
/-- 17 * 2753 = 15 * 3120 + 1, from a negative coefficient (R188). -/
theorem test_modinv_value :
    seen (fun s => s.reg .x3) (exec (.modinv .x3 .x3 .x4) (flying 0 regs [])) = some 2753 := by decide +kernel
/-- m = 0 is MODULUS although gcd(1, 0) = 1 (R189). -/
theorem test_modinv_modulus_first :
    seen (fun s => s.errCode) (exec (.modinv .x0 .x1 .x7) (flying 0 ⟨0, 1, 0, 0, 0, 0, 0, 0⟩ [])) = some 2 := by
  decide +kernel
theorem test_blksz_value :
    seen (fun s => s.bs) (exec (.blksz .x0) (flying 0 ⟨65536, 0, 0, 0, 0, 0, 0, 0⟩ [])) = some 3 := by decide +kernel
theorem test_lenchk_at_limit :
    seen (fun s => s.done) (exec .lenchk { flying 0 regs [] with bs := 12, mlen := 1 }) = some true := by decide +kernel
/-- BS = 11, MLEN = 1, and the reset values 0 and 0: code 6. -/
theorem test_lenchk_too_long :
    seen (fun s => s.errCode) (exec .lenchk { flying 0 regs [] with bs := 11, mlen := 1 }) = some 6 ∧
      seen (fun s => s.errCode) (exec .lenchk (flying 0 regs [])) = some 6 := by decide +kernel
/-- v = 0xFFFFFFFFFFFF, BS = 12: the terms are added, with a carry (R215 b). -/
theorem test_pad_carries :
    seen (fun s => s.reg .x1) (exec (.pad .x1 .x0) { flying 0 ⟨0xFFFFFFFFFFFF, 0, 0, 0, 0, 0, 0, 0⟩ [] with bs := 12 }) =
      some 0x20001FFFFFFFF := by decide +kernel
/-- v = 1, BS = 2: P = -1, RANGE. -/
theorem test_pad_negative_offset :
    seen (fun s => s.errCode) (exec (.pad .x1 .x0) { flying 0 ⟨1, 0, 0, 0, 0, 0, 0, 0⟩ [] with bs := 2 }) = some 3 := by
  decide +kernel
theorem test_unpad_value :
    seen (fun s => s.reg .x0) (exec (.unpad .x0 .x0) { flying 0 ⟨0x1ABCF, 0, 0, 0, 0, 0, 0, 0⟩ [] with bs := 4 }) =
      some 0xABCF := by decide +kernel
/-- BS = W/8 = 16 is BSMAX + 1: RANGE. -/
theorem test_unpad_bs_too_big :
    seen (fun s => s.errCode) (exec (.unpad .x0 .x0) { flying 0 regs [] with bs := 16 }) = some 3 := by decide +kernel

/-! ## The window and the sequencer, from 95_test_vectors.md 2.6 and P5 -/

/-- PARAM of W = 128 reads 0x01080004, of W = 2048 0x01080040. -/
theorem test_param_reads :
    seen (fun s => s.response) (step (idle regs [.hostRead 0x1C 4])) = some (some (.data 0x01080004)) ∧
      seen (fun s => s.response) (step { State.reset with script := [.hostRead 0x1C 4] }) =
        some (some (.data 0x01080040)) := by decide +kernel
/-- x7 limb 3 is at 0x107C and 0x1080 is past it; x1 limb 0 is at 0x1100 for NLIMB = 64. -/
theorem test_window_map :
    resolve 4 0x107C 4 = some (.limb .x7 3) ∧ resolve 4 0x1080 4 = none ∧ resolve 64 0x1100 4 = some (.limb .x1 0) ∧
      resolve 64 0x17FC 4 = some (.limb .x7 63) ∧ resolve 64 0x1800 4 = none ∧ resolve 4 0x0020 4 = none ∧
        resolve 4 0x1002 4 = none ∧ resolve 4 0x0004 2 = none := by decide +kernel
/-- WRL x2, 2, 0x01000200 over 0x41 (P5). -/
theorem test_limb_write :
    seen (fun s => s.reg .x2) (step (idle ⟨0, 0, 0x41, 0, 0, 0, 0, 0⟩ [.hostWrite 0x1028 4 0x01000200])) =
      some 0x010002000000000000000041 := by decide +kernel
/-- Busy, STATUS = 1: WRL x0, 0, 5 is dropped, STATUS = 0x11. -/
theorem test_busy_drop :
    seen (fun s => (s.statusWord, s.reg .x0, s.response)) (step (flying 9 regs [.hostWrite 0x1000 4 5])) =
      some (0x11, 4, some .okay) := by decide +kernel
/-- STATUS = 0x04, ERR = 2: WR CMD is dropped, STATUS = 0x14; WR STATUS, 0x04 clears both. -/
theorem test_err_blocks_and_clears :
    seen (fun s => (s.statusWord, s.cmd))
        (step { idle regs [.hostWrite 0 4 9] with err := true, errCode := 2, cmd := 0x00044301 }) =
        some (0x14, 0x00044301) ∧
      seen (fun s => (s.statusWord, s.errWord))
        (step { idle regs [.hostWrite 4 4 4] with err := true, errCode := 2 }) = some (0, 0) := by decide +kernel
/-- STATUS = 0x0A: WR STATUS, 0x08 leaves it (T is not writable). -/
theorem test_status_t_not_writable :
    seen (fun s => s.statusWord) (step { idle regs [.hostWrite 4 4 8] with done := true, t := true }) = some 0x0A := by
  decide +kernel
/-- `withFetchWord` makes the very next step run the word: from reset BLKSZ x3 gives BS = 0 and DONE (R309), LENCHK faults. -/
theorem test_fetch_word :
    seen (fun s => (s.done, s.bs, s.cmd)) (step (State.reset.withFetchWord 32 0x00001808)) = some (true, 0, 0x00001808) ∧
      seen (fun s => s.errCode) (step (State.reset.withFetchWord 32 9)) = some 6 := by decide +kernel

/-! ## Witnesses: for each statement with hypotheses, values that meet them -/

/-- An MRT in flight on 221 with one answer in: a legal state. -/
def mrtState (script : List Event) : State := { flying 0x00002803 regs script with rounds := 2, draws := [174] }

theorem decode_mrt_word : decode 0x00002803 = .ok (.mrt .x5) := by decide

theorem legal_mrtState (script : List Event) : (mrtState script).Legal where
  fits :=
    { nlimb := by show nlimbOk 4 = true; decide
      regs := by
        intro r
        show regs.get r < 2 ^ 128
        revert r
        intro r
        cases r <;> decide
      draws := by
        intro v hv
        obtain rfl := List.mem_singleton.1 hv
        show (174 : Nat) < 2 ^ 128
        decide }
  flags := ⟨⟨fun _ => rfl, fun _ => rfl⟩, Nat.zero_le _, fun _ => ⟨rfl, rfl⟩, fun h => nomatch h⟩
  port :=
    { request := fun q h => nomatch h
      count := fun _ => by show 1 ≤ 2; decide
      mrtOnly := fun _ _ => ⟨.x5, decode_mrt_word⟩ }

theorem witness_DecodeOfEncode : (Instr.unpad .x6 .x5).wellFormed = true := by decide
theorem witness_EncodeOfDecode : decode 0x000FFF01 = .ok (.modexp .x7 .x7 .x7 .x7) := by decide
theorem witness_WordDecodesIffFieldsWellFormed :
    (fieldsOf 0x00000A06).wellFormed = true ∧ (fieldsOf 0x00020803).wellFormed = false := by decide
theorem witness_StepRunsDecodedCommand :
    EngineMoves (flying 9 regs []) [] ∧ EngineMoves (flying 9 regs [.engine, .reset]) [.reset] ∧
      (flying 9 regs []).busy = true ∧ (flying 9 regs []).pending = none ∧ decode (flying 9 regs []).cmd = .ok .lenchk :=
  ⟨.inr ⟨rfl, rfl⟩, .inl rfl, rfl, rfl, by decide⟩
theorem witness_IllegalWordFaultsWithCode1 :
    EngineMoves (flying 0 regs [.engine]) [] ∧ (flying 0 regs [.engine]).busy = true ∧
      (flying 0 regs [.engine]).pending = none ∧ (fieldsOf (flying 0 regs [.engine]).cmd).wellFormed = false :=
  ⟨.inl rfl, rfl, rfl, by decide⟩
theorem witness_EngineWaitsWhenNothingEnabled :
    EngineMoves (idle regs [.engine]) [] ∧ (idle regs [.engine]).busy = false ∧
      EngineMoves { mrtState [.engine] with pending := some ⟨2, 219⟩ } [] ∧
        { mrtState [.engine] with pending := some ⟨2, 219⟩ }.pending ≠ none :=
  ⟨.inl rfl, rfl, .inl rfl, by decide⟩
theorem witness_StepKeepsLegal : (mrtState [.engine]).Legal ∧ ∃ s', step (mrtState [.engine]) = .next s' :=
  ⟨legal_mrtState _, _, rfl⟩
theorem witness_ResetStateIsLegal : nlimbOk 2 = true ∧ nlimbOk 65535 = true := by decide
theorem witness_ResetStateAsStated : (2 : Nat) ≤ 65535 ∧ (65535 : Nat) ≤ 65535 := by decide
theorem witness_ResetAbandonsCommandInFlight :
    { mrtState [.reset, .answer 3] with pending := some ⟨2, 219⟩ }.script = .reset :: [.answer 3] := rfl

theorem witness_Busy_rises :
    ∃ s', step (idle regs [.hostWrite 0 4 9]) = .next s' ∧ (idle regs [.hostWrite 0 4 9]).busy = false ∧ s'.busy = true :=
  ⟨_, rfl, rfl, rfl⟩
theorem witness_Busy_falls_by_reset :
    ∃ s', step (flying 9 regs [.reset]) = .next s' ∧ (flying 9 regs [.reset]).busy = true ∧ s'.busy = false :=
  ⟨_, rfl, rfl, rfl⟩
theorem witness_Busy_falls_by_retire :
    seen (fun s' => (s'.busy, s'.err)) (step (flying 9 regs [.engine])) = some (false, true) := by decide +kernel
theorem witness_CmdWriteAcceptedOrDropped :
    ((idle regs [.hostWrite 0 4 9]).busy = false ∧ (idle regs [.hostWrite 0 4 9]).err = false) ∧
      (flying 9 regs [.hostWrite 0 4 9]).busy = true ∧ { idle regs [.hostWrite 0 4 9] with err := true }.err = true ∧
        (idle regs [.hostRead 0 4]).script = .hostRead 0 4 :: [] :=
  ⟨⟨rfl, rfl⟩, rfl, rfl, rfl⟩
theorem witness_StatusWriteOneToClear :
    (flying 9 regs [.hostWrite 4 4 0x16]).script = .hostWrite 0x04 4 0x16 :: [] ∧
      (idle regs [.hostRead 4 4]).script = .hostRead 0x04 4 :: [] := ⟨rfl, rfl⟩
theorem witness_Done_rises :
    seen (fun s' => (s'.done, s'.busy)) (step { flying 9 regs [.engine] with bs := 11 }) = some (true, false) := by
  decide +kernel
theorem witness_Done_falls :
    seen (fun s' => s'.done) (step { idle regs [.hostWrite 0 4 9] with done := true }) = some false ∧
      seen (fun s' => s'.done) (step { idle regs [.hostWrite 4 4 2] with done := true }) = some false ∧
        seen (fun s' => s'.done) (step { idle regs [.reset] with done := true }) = some false := by decide +kernel
/-- A fault's retire: ERR rises (FaultsArePrecise, and the last clause of DoneRisesOnlyAtComplete). -/
theorem witness_Err_rises :
    (flying 9 regs [.engine]).err = false ∧
      seen (fun s' => (s'.err, s'.errCode)) (step (flying 9 regs [.engine])) = some (true, 6) := by decide +kernel
theorem witness_FaultReturnAllowsNextCommand :
    (4#32).getLsbD 2 = true ∧
      { idle regs [.hostWrite 4 4 4, .hostWrite 0 4 9] with err := true, errCode := 6 }.busy = false ∧
      { idle regs [.hostWrite 4 4 4, .hostWrite 0 4 9] with err := true, errCode := 6 }.script =
        .hostWrite 0x04 4 4 :: .hostWrite 0 4 9 :: [] := ⟨by decide, rfl, rfl⟩
theorem witness_Ovr_rises :
    seen (fun s' => s'.ovr) (step (flying 9 regs [.hostWrite 0x107C 4 5])) = some true ∧
      seen (fun s' => s'.ovr) (step { idle regs [.hostWrite 0 4 9] with err := true }) = some true := by decide +kernel
theorem witness_Ovr_falls :
    seen (fun s' => s'.ovr) (step { flying 9 regs [.hostWrite 4 4 0x10] with ovr := true }) = some false ∧
      seen (fun s' => s'.ovr) (step { flying 9 regs [.reset] with ovr := true }) = some false := by decide +kernel
theorem witness_TFlag_written :
    evaluate (.gcd .x0 .x3 .x4) (flying 0 regs []) = .complete { dest := some (.x0, 1), t := some true } ∧
      seen (fun s' => s'.t) (step (flying 0x00011804 ⟨0, 0, 0, 17, 3120, 0, 0, 0⟩ [.engine])) = some true ∧
        seen (fun s' => s'.t) (step { idle regs [.reset] with t := true }) = some false := by decide +kernel
theorem witness_BusyFreezesCommandInputs :
    seen (fun s' => s'.busy) (step { mrtState [.answer 137] with pending := some ⟨2, 219⟩, draws := [] }) = some true ∧
      seen (fun s' => s'.busy) (step (flying 9 regs [.hostWrite 0x10 4 5])) = some true := by decide +kernel
theorem witness_ResultDependsOnlyOnInputs :
    (flying 9 regs []).x = { flying 9 regs [] with t := true, ovr := true, ieErr := true }.x ∧
      { flying 9 regs [] with t := true, ovr := true, ieErr := true }.busy = true ∧
        (flying 9 regs []).err = false ∧ (flying 9 regs []).pending = none := ⟨rfl, rfl, rfl, rfl⟩
theorem witness_CommandsWriteOnlyTheirDestination :
    seen (fun s' => s'.reg .x0) (exec (.gcd .x0 .x3 .x4) (flying 0 regs [])) = some 1 ∧
      (flying 0 regs []).reg .x0 ≠ 1 ∧
        seen (fun s' => s'.bs) (exec (.blksz .x4) (flying 0 regs [])) = some 2 := by decide +kernel
/-- A host that polls, writes CTRL and drops a write in between, and goes on after the read. -/
theorem witness_AcceptedCommandIsVisible :
    (∀ e ∈ [Event.engine, .hostRead 4 4, .hostWrite 8 4 3, .hostWrite 0x1000 4 5, .answer 137, .engine],
      e = .engine ∨ (∃ v, e = .answer v) ∨ (∃ a n, e = .hostRead a n) ∨ ∃ a n w, e = .hostWrite a n w ∧ a ≠ 0x04) ∧
      (mrtState [.engine, .hostRead 4 4, .hostWrite 8 4 3, .hostWrite 0x1000 4 5, .answer 137, .engine, .hostRead 4 4,
        .reset]).busy = true ∧
      (mrtState [.engine, .hostRead 4 4, .hostWrite 8 4 3, .hostWrite 0x1000 4 5, .answer 137, .engine, .hostRead 4 4,
        .reset]).script =
        [.engine, .hostRead 4 4, .hostWrite 8 4 3, .hostWrite 0x1000 4 5, .answer 137, .engine] ++
          .hostRead 0x04 4 :: [.reset] :=
  ⟨by simp, rfl, rfl⟩
theorem witness_Irq_rises :
    seen State.irq (step { flying 9 regs [.engine] with ieErr := true }) = some true ∧
      seen State.irq (step { idle regs [.hostWrite 8 4 1] with done := true }) = some true := by decide +kernel
theorem witness_Irq_falls :
    seen State.irq (step { idle regs [.hostWrite 4 4 2] with done := true, ieDone := true }) = some false ∧
      seen State.irq (step { idle regs [.hostWrite 8 4 0] with done := true, ieDone := true }) = some false ∧
      seen State.irq (step { idle regs [.hostWrite 0 4 9] with done := true, ieDone := true }) = some false ∧
      seen State.irq (step { idle regs [.reset] with done := true, ieDone := true }) = some false := by decide +kernel

theorem witness_WindowMapIsExact :
    nlimbOk 4 = true ∧ (∃ c : CtlReg, Target.ctl .param = .ctl c ∧ 0x1C = c.offset) ∧
      (3 < 4 ∧ 0x107C = 0x1000 + Reg.x7.index * 4 * 4 + 4 * 3) := ⟨by decide, ⟨.param, rfl, rfl⟩, by decide⟩
/-- Each of the four ways not to be in the map, at its edge: size, alignment, the hole, past x7. -/
theorem witness_ErrorAccessChangesNothing :
    (2 ≠ 4 ∨ 4 % 4 ≠ 0 ∨ (0x20 ≤ 4 ∧ 4 < 0x1000) ∨ 0x1000 + 32 * (idle regs []).nlimb ≤ 4) ∧
      (4 ≠ 4 ∨ 0x1002 % 4 ≠ 0 ∨ (0x20 ≤ 0x1002 ∧ 0x1002 < 0x1000) ∨ 0x1000 + 32 * (idle regs []).nlimb ≤ 0x1002) ∧
      ((0x20 ≤ 0x20 ∧ 0x20 < 0x1000) ∧ (0x20 ≤ 0xFFC ∧ 0xFFC < 0x1000)) ∧
      0x1000 + 32 * (idle regs []).nlimb ≤ 0x1080 ∧ (idle regs [.hostRead 0x1080 4]).script = .hostRead 0x1080 4 :: [] ∧
      (flying 9 regs [.hostWrite 0x20 4 1]).script = .hostWrite 0x20 4 1 :: [] := by decide +kernel
theorem witness_ReadHasNoSideEffect : (flying 9 regs [.hostRead 0x1081 7]).script = .hostRead 0x1081 7 :: [] := rfl
theorem witness_CtrlWriteAlwaysPerformed :
    (flying 9 regs [.hostWrite 8 4 1]).script = .hostWrite 0x08 4 1 :: [] ∧
      (flying 9 regs [.hostRead 8 4]).script = .hostRead 0x08 4 :: [] := ⟨rfl, rfl⟩
theorem witness_ParameterRegistersStoreWhenIdle :
    (idle regs []).busy = false ∧ (idle regs [.hostWrite 0x10 4 0xFFFFFFFF]).script = .hostWrite 0x10 4 0xFFFFFFFF :: [] ∧
      (idle regs [.hostWrite 0x14 4 1]).script = .hostWrite 0x14 4 1 :: [] ∧
      (idle regs [.hostWrite 0x18 4 0]).script = .hostWrite 0x18 4 0 :: [] ∧
      (idle regs [.hostRead 0x18 4]).script = .hostRead 0x18 4 :: [] := ⟨rfl, rfl, rfl, rfl, rfl⟩
theorem witness_ErrAndParamIgnoreWrites :
    (flying 9 regs [.hostWrite 0x0C 4 0xFF]).script = .hostWrite 0x0C 4 0xFF :: [] ∧
      (idle regs [.hostWrite 0x1C 4 0xFF]).script = .hostWrite 0x1C 4 0xFF :: [] ∧
      (idle regs [.hostRead 0x0C 4]).script = .hostRead 0x0C 4 :: [] := ⟨rfl, rfl, rfl⟩
/-- The first and the last limb in the window, and each register it names. -/
theorem witness_BusyDropsWrites :
    (flying 9 regs [.hostWrite 0x00 4 5]).busy = true ∧
      (0x1000 ≤ 0x1000 ∧ 0x1000 < 0x1000 + 32 * (flying 9 regs []).nlimb ∧ 0x1000 % 4 = 0) ∧
      (0x1000 ≤ 0x107C ∧ 0x107C < 0x1000 + 32 * (flying 9 regs []).nlimb ∧ 0x107C % 4 = 0) ∧
      (flying 9 regs [.hostWrite 0x107C 4 5]).script = .hostWrite 0x107C 4 5 :: [] := by decide +kernel
theorem witness_ParamReadsItsConstant :
    (idle regs [.hostRead 0x1C 4]).script = .hostRead 0x1C 4 :: [] ∧ (idle regs []).nlimb ≤ 65535 ∧
      { State.reset with script := [.hostRead 0x1C 4] }.width = 2048 ∧ ∃ s', step (flying 9 regs [.reset]) = .next s' :=
  ⟨rfl, by decide, rfl, _, rfl⟩
theorem witness_LimbWriteReplacesOneLimb :
    nlimbOk (idle regs []).nlimb = true ∧ 3 < (idle regs []).nlimb ∧ (idle regs []).busy = false ∧
      (idle regs [.hostWrite 0x107C 4 5]).script = .hostWrite (0x1000 + Reg.x7.index * 4 * 4 + 4 * 3) 4 5 :: [] ∧
      (idle regs [.hostRead 0x107C 4]).script = .hostRead (0x1000 + Reg.x7.index * 4 * 4 + 4 * 3) 4 :: [] := by
  decide +kernel
theorem witness_RegisterIsSumOfItsLimbs : (mrtState []).Legal := legal_mrtState _
theorem witness_LdxLoadsTheValue :
    nlimbOk (idle regs []).nlimb = true ∧ (idle regs []).reg .x7 < 2 ^ (idle regs []).width ∧
      (2 ^ 128 - 1) < 2 ^ (idle regs []).width ∧
      (idle regs (lineLdx 4 .x7 (2 ^ 128 - 1) ++ [.engine])).script = lineLdx 4 .x7 (2 ^ 128 - 1) ++ [.engine] := by
  decide +kernel
theorem witness_AnswerTakenOnlyWhilePending :
    (2 ^ 128 - 1) < 2 ^ (mrtState []).width ∧
      { mrtState [.answer (2 ^ 128 - 1)] with pending := some ⟨2, 219⟩ }.pending ≠ none ∧
      (mrtState [.answer (2 ^ 128 - 1)]).pending = none := by decide +kernel

theorem witness_ModexpWritesPowerModN : (flying 0 regs []).reg .x2 ≠ 0 ∧ (flying 0 regs []).reg .x7 = 0 := by decide
/-- n = 5 with 2 and 3, its whole interval; and one just outside each bound: n = 3, n = 6, a = 1, a = n - 1. -/
theorem witness_MrwRunsOneRound :
    (5 ≤ (flying 0 ⟨5, 2, 3, 0, 0, 0, 0, 0⟩ []).reg .x0 ∧ (flying 0 ⟨5, 2, 3, 0, 0, 0, 0, 0⟩ []).reg .x0 % 2 = 1 ∧
        2 ≤ (flying 0 ⟨5, 2, 3, 0, 0, 0, 0, 0⟩ []).reg .x1 ∧
        (flying 0 ⟨5, 2, 3, 0, 0, 0, 0, 0⟩ []).reg .x2 ≤ (flying 0 ⟨5, 2, 3, 0, 0, 0, 0, 0⟩ []).reg .x0 - 2) ∧
      5 - 1 = 2 ^ 2 * 1 ∧ (flying 0 ⟨3, 6, 1, 4, 5, 0, 0, 0⟩ []).reg .x0 < 5 ∧
      (flying 0 ⟨3, 6, 1, 4, 5, 0, 0, 0⟩ []).reg .x1 % 2 = 0 ∧ (flying 0 ⟨3, 6, 1, 4, 5, 0, 0, 0⟩ []).reg .x2 < 2 ∧
      (flying 0 ⟨3, 6, 1, 4, 5, 0, 0, 0⟩ []).reg .x4 - 2 < (flying 0 ⟨3, 6, 1, 4, 5, 0, 0, 0⟩ []).reg .x3 := by decide
theorem witness_MrtClassifiesSmallAndEven :
    (flying 0 ⟨3, 4, 0, 0, 0, 0, 0, 0⟩ []).reg .x0 ≤ 3 ∧ (flying 0 ⟨3, 4, 0, 0, 0, 0, 0, 0⟩ []).reg .x1 % 2 = 0 := by decide
/-- n = 221: 174 passes, 137 does not, 220 is outside; ROUNDS answers in, one missing, none asked for. -/
theorem witness_MrtRunsTheRounds :
    (mrtState []).reg .x5 = 221 ∧ mrRound 221 174 = .pass ∧ mrRound 221 137 = .composite ∧ 2 ≤ 174 ∧ 174 ≤ 221 - 2 ∧
      221 - 2 < 220 ∧ (mrtState []).draws.length < (mrtState []).rounds.toNat ∧
      { mrtState [] with draws := [174, 174] }.draws.length = (mrtState []).rounds.toNat ∧
      { mrtState [] with draws := [174, 137] }.draws = [174] ++ 137 :: [] ∧
      { mrtState [] with rounds := 0, draws := [] }.rounds.toNat ≤ 0 := by decide +kernel
theorem witness_MrtRetiresWhenAnswered :
    (mrtState []).busy = true ∧ decode (mrtState []).cmd = .ok (.mrt .x5) ∧ 5 ≤ (mrtState []).reg .x5 ∧
      (mrtState []).reg .x5 % 2 = 1 ∧ [174, 174].length = (mrtState []).rounds.toNat ∧
      (∀ a ∈ [174, 174], 2 ≤ a ∧ a ≤ (mrtState []).reg .x5 - 2 ∧ mrRound ((mrtState []).reg .x5) a = .pass) ∧
      [.engine, .answer 174, .engine, .answer 174, .engine] =
        Event.engine :: ([174, 174].flatMap fun a => [Event.answer a, Event.engine]) ++ [] := by decide +kernel
/-- The same state with no answer in yet is legal, which MrtRetiresWhenAnswered also asks. -/
theorem witness_MrtRetiresWhenAnswered_legal :
    { mrtState [.engine, .answer 174, .engine, .answer 174, .engine] with draws := [] }.Legal :=
  let h := legal_mrtState [.engine, .answer 174, .engine, .answer 174, .engine]
  ⟨⟨h.fits.nlimb, h.fits.regs, fun _ hv => (nomatch hv)⟩, ⟨h.flags.code, h.flags.codeRange, h.flags.busy, h.flags.done⟩,
    { request := fun _ hq => (nomatch hq), count := fun _ => Nat.zero_le _, mrtOnly := fun _ hd => absurd rfl hd }⟩
theorem witness_MrtNeverRejectsPrime :
    Nat.Prime ((flying 0x00000803 regs []).reg .x1) ∧ (flying 0x00000803 regs []).busy = true ∧
      (flying 0x00000803 regs []).err = false ∧
      seen (fun s' => (s'.busy, s'.err)) (exec (.mrt .x1) { flying 0x00000803 regs [] with rounds := 1, draws := [2] }) =
        some (false, false) :=
  ⟨by show Nat.Prime 13; norm_num, rfl, rfl, by decide +kernel⟩
theorem witness_ModinvWritesTheInverse :
    ((flying 0 regs []).reg .x4 ≠ 0 ∧ Nat.gcd ((flying 0 regs []).reg .x3) ((flying 0 regs []).reg .x4) = 1) ∧
      (flying 0 regs []).reg .x7 = 0 ∧
      Nat.gcd ((flying 0 ⟨6, 9, 0, 0, 0, 0, 0, 0⟩ []).reg .x0) ((flying 0 ⟨6, 9, 0, 0, 0, 0, 0, 0⟩ []).reg .x1) ≠ 1 := by
  decide +kernel
theorem witness_BlkszWritesByteLength : (mrtState []).Legal := legal_mrtState _
theorem witness_LenchkComparesOverIntegers :
    { flying 9 regs [] with bs := 33, mlen := 22 }.mlen.toNat + 11 ≤ { flying 9 regs [] with bs := 33, mlen := 22 }.bs.toNat ∧
      { flying 9 regs [] with bs := 33, mlen := 23 }.bs.toNat < { flying 9 regs [] with bs := 33, mlen := 23 }.mlen.toNat + 11 := by
  decide
/-- v = 0xABCD has L = 2: BS = 4 gives P = 0; BS = 3, 1 and 16 are refused, each for its own reason. -/
theorem witness_PadWritesTheFormula :
    0xABCD < 2 ^ (8 * 2) ∧ (∀ k, 0xABCD < 2 ^ (8 * k) → 2 ≤ k) ∧
      (2 ≤ 4 ∧ 4 ≤ (flying 0 regs []).width / 8 - 1 ∧ 2 + 2 ≤ 4) ∧ 3 < 2 + 2 ∧ 1 < 2 ∧
        (flying 0 regs []).width / 8 - 1 < 16 := by
  refine ⟨by decide, fun k hk => ?_, by decide, by decide, by decide, by decide⟩
  by_contra h
  interval_cases k <;> simp at hk
theorem witness_PadResultFitsRegister :
    { flying 0 ⟨0xABCD, 0, 0, 0, 0, 0, 0, 0⟩ [] with bs := 4 }.done = false ∧
      seen (fun s' => s'.done) (exec (.pad .x1 .x0) { flying 0 ⟨0xABCD, 0, 0, 0, 0, 0, 0, 0⟩ [] with bs := 4 }) =
        some true := by decide +kernel
theorem witness_UnpadKeepsLowBytes :
    (2 ≤ 2 ∧ 15 ≤ (flying 0 regs []).width / 8 - 1) ∧ 1 < 2 ∧ (flying 0 regs []).width / 8 - 1 < 16 := by decide
/-- v = 0x41, L = 1, P = 9, BS = 12. -/
theorem witness_UnpadAfterPadKeepsBytesBelowP :
    0x41 < 2 ^ (8 * 1) ∧ (∀ k, 0x41 < 2 ^ (8 * k) → 1 ≤ k) ∧ 12 = 9 + 1 + 2 ∧ 12 ≤ (flying 0 regs []).width / 8 - 1 := by
  refine ⟨by decide, fun k hk => ?_, by decide, by decide⟩
  by_contra h
  interval_cases k
  simp at hk
/-- The message "A" under the 96-bit key of program P2, whose padded block comes back. -/
theorem witness_DecryptReturnsMessageIffShort :
    1 ≤ [(0x41 : Byte)].length ∧ [(0x41 : Byte)].length + 11 ≤ bytelen 0xffffffffff84000000000efb ∧
      modexp (modexp (padBlock (fromBe [0x41]) 12) 65537 0xffffffffff84000000000efb) 0xb4154beab3bca96f5690b451
        0xffffffffff84000000000efb = padBlock (fromBe [0x41]) 12 := by decide +kernel
/-- Program P1: p = 61, q = 53, e = 17, d = 2753. -/
theorem witness_RsaDecryptionInvertsEncryption :
    Nat.Prime 61 ∧ Nat.Prime 53 ∧ 17 * 2753 % ((61 - 1) * (53 - 1)) = 1 ∧ 65 < 61 * 53 :=
  ⟨by norm_num, by norm_num, by decide, by decide⟩
/-- Program P1's key, found at the second sample, 12 not being coprime to 3120. -/
theorem witness_DerivedKeysAreInverse : deriveKeys 61 53 [12, 17] = some ⟨3233, 17, 2753⟩ := by decide +kernel

/-- LENCHK on the reset values: the first word read is busy; then the engine's turn, and STATUS = 0x04. One poll ends nothing. -/
theorem witness_WaitReturnsTheFirstIdleStatus :
    (waitFor [[], [.engine], []] (flying 9 regs [])).map (fun r => (r.2, r.1.errCode)) = some (0x04, 6) ∧
      waitFor [[]] (flying 9 regs []) = none := by decide +kernel
theorem witness_CommandStopsTheHostOnFault :
    (∀ rs1, Instr.lenchk ≠ .mrt rs1) ∧ (idle regs []).busy = false ∧ (idle regs []).err = false ∧
      (issue .lenchk [[.engine]] (idle regs [])).toOption.map (fun r => r.1.err) = some true ∧
      (issue (.gcd .x0 .x3 .x4) [[.engine]] (idle regs [])).toOption.map (fun r => r.1.err) = some false :=
  ⟨fun _ h => (nomatch h), rfl, rfl, by decide +kernel, by decide +kernel⟩
/-- Program P2's key: e in x2, and n, of 12 bytes, in x3. -/
def keyState : State := idle ⟨0, 0, 65537, 0xffffffffff84000000000efb, 0, 0, 0, 0⟩ []

theorem fits_keyState : keyState.Fits where
  nlimb := by decide
  regs := by
    intro r
    cases r <;> decide +kernel
  draws := fun _ hv => nomatch hv

/-- One byte is encrypted, to P2's ciphertext, two are too long. -/
theorem witness_EncryptOnBlockAgreesWithEncrypt :
    keyState.Fits ∧ keyState.busy = false ∧ keyState.err = false ∧ bytelen (keyState.reg .x3) ≤ keyState.bsMax ∧
      [(0x41 : Byte)].length < 2 ^ 32 ∧ encrypt [0x41, 0x42] (keyState.reg .x3) (keyState.reg .x2) = none ∧
      encrypt [0x41] (keyState.reg .x3) (keyState.reg .x2) =
        some ([0x73, 0x31, 0xbd, 0xaa, 0x84, 0x23, 0x42, 0x05, 0xa0, 0x72, 0x16, 0xbf], 1) :=
  ⟨fits_keyState, rfl, rfl, by decide +kernel, by decide, by decide +kernel, by decide +kernel⟩

end Sys2Proof.Tests.Slice0
end

section
/-! SUPPORT. The legal states, field by field: which fields each part of the invariant reads, what a register file keeps
below a bound, that every operand write of a command fits the register (spec/00_scope.md R23), that only MRT asks the random
source (spec/41_miller_rabin.md R166), and from these that every way of making a step keeps the invariant. -/

namespace Sys2Proof.Machine

/-! ## What the parts of the invariant read -/

/-- `Fits` reads NLIMB, the registers and the answers; fewer answers fit too. -/
theorem State.Fits.congr {s s' : State} (h : s.Fits) (hn : s'.nlimb = s.nlimb) (hx : s'.x = s.x)
    (hd : ∀ v ∈ s'.draws, v ∈ s.draws) : s'.Fits where
  nlimb := by rw [hn]; exact h.nlimb
  regs r := by rw [State.reg_congr hx, State.width_congr hn]; exact h.regs r
  draws v hv := by rw [State.width_congr hn]; exact h.draws v (hd v hv)

/-- `FlagsAgree` reads BUSY, DONE, ERR and CODE. -/
theorem State.FlagsAgree.congr {s s' : State} (h : s.FlagsAgree) (hb : s'.busy = s.busy) (hd : s'.done = s.done)
    (he : s'.err = s.err) (hc : s'.errCode = s.errCode) : s'.FlagsAgree where
  code := by rw [hc, he]; exact h.code
  codeRange := by rw [hc]; exact h.codeRange
  busy := by rw [hb, hd, he]; exact h.busy
  done := by rw [hd, he]; exact h.done

/-- `PortAgrees` reads BUSY, CMD, ROUNDS, the registers, the answers and the request. -/
theorem State.PortAgrees.congr {s s' : State} (h : s.PortAgrees) (hb : s'.busy = s.busy) (hc : s'.cmd = s.cmd)
    (hr : s'.rounds = s.rounds) (hx : s'.x = s.x) (hd : s'.draws = s.draws) (hp : s'.pending = s.pending) :
    s'.PortAgrees where
  request := by
    simp only [hb, hc, hr, hd, hp, State.reg_congr hx]
    exact h.request
  count := by rw [hb, hd, hr]; exact h.count
  mrtOnly := by rw [hb, hd, hc]; exact h.mrtOnly

/-- Idle, no request is outstanding. -/
theorem State.PortAgrees.pending_of_idle {s : State} (h : s.PortAgrees) (hb : s.busy = false) : s.pending = none := by
  cases hp : s.pending with
  | none => rfl
  | some q =>
    obtain ⟨hbusy, -⟩ := h.request q hp
    rw [hb] at hbusy
    cases hbusy

/-- An idle block with no request outstanding agrees with its port. -/
theorem State.portAgrees_of_idle {s : State} (hb : s.busy = false) (hp : s.pending = none) : s.PortAgrees where
  request q hq := by rw [hp] at hq; cases hq
  count h := by rw [hb] at h; cases h
  mrtOnly h := by rw [hb] at h; cases h

/-- The invariant reads neither T, OVR, CTRL, BS and MLEN nor the model's own two fields. -/
theorem State.Legal.setUnread {s : State} (h : s.Legal) {t ovr ieDone ieErr : Bool} {bs mlen : Word}
    {script : List Event} {response : Option Response} :
    { s with t := t, ovr := ovr, ieDone := ieDone, ieErr := ieErr, bs := bs, mlen := mlen, script := script,
             response := response }.Legal where
  fits := h.fits.congr rfl rfl fun _ => id
  flags := h.flags.congr rfl rfl rfl rfl
  port := h.port.congr rfl rfl rfl rfl rfl rfl

/-- Registers below a bound stay below it when one is written with a value below it. -/
theorem OperandRegs.get_set_lt {x : OperandRegs} {b v : Nat} (hx : ∀ q, x.get q < b) (hv : v < b) (r q : Reg) :
    (x.set r v).get q < b := by
  by_cases hq : q = r
  · subst hq
    rwa [OperandRegs.get_set_same]
  · rw [OperandRegs.get_set_other x v hq]
    exact hx q

/-! ## Every result fits a register (R23) -/

/-- The operand write of this evaluation, if it makes one, is below `b`. -/
def Evaluation.DestBelow (b : Nat) (ev : Evaluation) : Prop :=
  ∀ u r v, ev = .complete u → u.dest = some (r, v) → v < b

@[simp] theorem Evaluation.destBelow_fault (b : Nat) (c : FaultCode) : (Evaluation.fault c).DestBelow b :=
  fun _ _ _ h => nomatch h

theorem Evaluation.destBelow_of_dest_none {b : Nat} {ev : Evaluation}
    (h : ∀ u, ev = .complete u → u.dest = none) : ev.DestBelow b := by
  intro u r v hu hd
  rw [h u hu] at hd
  cases hd

@[simp] theorem Evaluation.destBelow_some {b v : Nat} {r : Reg} {w : Option Word} {t : Option Bool} :
    (Evaluation.complete { dest := some (r, v), bs := w, t := t }).DestBelow b ↔ v < b := by
  constructor
  · exact fun h => h _ r v rfl rfl
  · rintro h _ _ _ ⟨⟩ ⟨⟩
    exact h

/-- The pad formula stays below 2^W: with BS ≤ BSMAX each of its three terms is at most 2^(W - 8) (R213, R216). -/
theorem padValue_lt {bs v w : Nat} (hbs : bs ≤ w / 8 - 1) (hL : bytelen v + 2 ≤ bs) :
    padValue (bs - bytelen v - 2) v < 2 ^ w := by
  have hv : v < 2 ^ (8 * bytelen v) := bytelen_le_iff.1 le_rfl
  have hhigh : 2 ^ (8 * (bs - bytelen v - 2) + 16) ≤ 2 ^ (w - 8) := Nat.pow_le_pow_right (by decide) (by omega)
  have hlow : 2 ^ (8 * (bs - bytelen v - 2) + 1) ≤ 2 ^ (w - 8) := Nat.pow_le_pow_right (by decide) (by omega)
  have hval : 2 ^ (8 * bytelen v) ≤ 2 ^ (w - 8) := Nat.pow_le_pow_right (by decide) (by omega)
  have hw : 2 ^ w = 2 ^ (w - 8) * 2 ^ 8 := by rw [← pow_add]; congr 1; omega
  rw [pow_succ] at hlow
  rw [padValue, Config.markerHigh, Config.markerLow, hw]
  omega

theorem evalPad_destBelow (s : State) (rd rs1 : Reg) : (evalPad s rd rs1).DestBelow (2 ^ s.width) := by
  rw [evalPad]
  split
  · simp
  · rename_i hok
    split
    · simp
    · rename_i hP
      rw [Bool.not_eq_false, blockSizeOk_iff] at hok
      rw [padOffset_neg, not_lt] at hP
      rw [Evaluation.destBelow_some, padOffset_of_le hP, Int.toNat_natCast]
      exact padValue_lt hok.2 hP

theorem evalMrw_destBelow (s : State) (rs1 rs2 : Reg) (b : Nat) : (evalMrw s rs1 rs2).DestBelow b := by
  rw [evalMrw]
  split
  · simp
  · split
    · simp
    · exact Evaluation.destBelow_of_dest_none (by rintro _ ⟨⟩; rfl)

theorem evalLenchk_destBelow (s : State) (b : Nat) : (evalLenchk s).DestBelow b := by
  rw [evalLenchk]
  split
  · simp
  · exact Evaluation.destBelow_of_dest_none (by rintro _ ⟨⟩; rfl)

section
variable {s : State} (h : s.Fits) (rd rs1 rs2 rs3 : Reg)
include h

theorem evalModexp_destBelow : (evalModexp s rd rs1 rs2 rs3).DestBelow (2 ^ s.width) := by
  rw [evalModexp]
  split
  · simp
  · rename_i hn
    rw [Evaluation.destBelow_some, modexp_eq]
    exact (Nat.mod_lt _ (Nat.pos_of_ne_zero hn)).trans (h.regs rs3)

theorem evalGcd_destBelow : (evalGcd s rd rs1 rs2).DestBelow (2 ^ s.width) := by
  rw [evalGcd, Evaluation.destBelow_some]
  rcases Nat.eq_zero_or_pos (s.reg rs1) with h0 | h0
  · rw [h0, Nat.gcd_zero_left]
    exact h.regs rs2
  · exact (Nat.gcd_le_left _ h0).trans_lt (h.regs rs1)

theorem evalModinv_destBelow : (evalModinv s rd rs1 rs2).DestBelow (2 ^ s.width) := by
  rw [evalModinv]
  split
  · simp
  · rename_i hm
    split
    · simp
    · rw [Evaluation.destBelow_some]
      exact (modInverse_lt (Nat.pos_of_ne_zero hm)).trans (h.regs rs2)

theorem evalUnpad_destBelow : (evalUnpad s rd rs1).DestBelow (2 ^ s.width) := by
  rw [evalUnpad]
  split
  · simp
  · rw [Evaluation.destBelow_some, unpadValue_eq_mod]
    exact (Nat.mod_le _ _).trans_lt (h.regs rs1)

/-- No result exceeds a register, whatever the command (R23). -/
theorem evaluate_destBelow (i : Instr) : (evaluate i s).DestBelow (2 ^ s.width) := by
  cases i with
  | modexp rd rs1 rs2 rs3 => exact evalModexp_destBelow h rd rs1 rs2 rs3
  | mrw rs1 rs2 => exact evalMrw_destBelow s rs1 rs2 _
  | mrt rs1 => exact Evaluation.destBelow_of_dest_none fun _ hu => (mrtTest_writes hu).1
  | gcd rd rs1 rs2 => exact evalGcd_destBelow h rd rs1 rs2
  | modinv rd rs1 rs2 => exact evalModinv_destBelow h rd rs1 rs2
  | pad rd rs1 => exact evalPad_destBelow s rd rs1
  | unpad rd rs1 => exact evalUnpad_destBelow h rd rs1
  | blksz rs1 => exact Evaluation.destBelow_of_dest_none (by rintro _ ⟨⟩; rfl)
  | lenchk => exact evalLenchk_destBelow s _

end

/-! ## Only MRT asks, and only for [2, n - 2] (R54, R164, R166) -/

/-- The rounds ask only while an answer is missing, always for [2, n - 2]. -/
theorem mrtRounds_needDraw {n lo hi : Nat} : ∀ {draws : List Nat} {k : Nat},
    mrtRounds n k draws = .needDraw lo hi → draws.length < k ∧ lo = 2 ∧ hi = n - 2
  | [], 0, h => by cases h
  | [], k + 1, h => by
    cases h
    exact ⟨Nat.succ_pos k, rfl, rfl⟩
  | a :: rest, 0, h => by cases h
  | a :: rest, k + 1, h => by
    rw [mrtRounds] at h
    split at h
    · cases h
    split at h
    · cases h
    · obtain ⟨hlen, hlohi⟩ := mrtRounds_needDraw h
      exact ⟨Nat.succ_lt_succ hlen, hlohi⟩

/-- The whole test asks only of an odd candidate of 5 or more (R154). -/
theorem mrtTest_needDraw {n k lo hi : Nat} {draws : List Nat} (h : mrtTest n k draws = .needDraw lo hi) :
    draws.length < k ∧ 5 ≤ n ∧ n % 2 = 1 ∧ lo = 2 ∧ hi = n - 2 := by
  rw [mrtTest] at h
  split at h
  · cases h
  split at h
  · cases h
  split at h
  · cases h
  · obtain ⟨hlen, hlo, hhi⟩ := mrtRounds_needDraw h
    exact ⟨hlen, by omega, by omega, hlo, hhi⟩

/-- A command that asks is an MRT (R56, R166). -/
theorem eq_mrt_of_needDraw {i : Instr} {s : State} {lo hi : Nat} (h : evaluate i s = .needDraw lo hi) :
    ∃ rs1, i = .mrt rs1 := by
  cases i with
  | mrt rs1 => exact ⟨rs1, rfl⟩
  | modexp rd rs1 rs2 rs3 =>
    rw [evaluate, evalModexp] at h
    split at h <;> cases h
  | mrw rs1 rs2 =>
    rw [evaluate, evalMrw] at h
    split at h
    · cases h
    · split at h <;> cases h
  | gcd rd rs1 rs2 => cases h
  | modinv rd rs1 rs2 =>
    rw [evaluate, evalModinv] at h
    split at h
    · cases h
    · split at h <;> cases h
  | pad rd rs1 =>
    rw [evaluate, evalPad] at h
    split at h
    · cases h
    · split at h <;> cases h
  | unpad rd rs1 =>
    rw [evaluate, evalUnpad] at h
    split at h <;> cases h
  | blksz rs1 => cases h
  | lenchk =>
    rw [evaluate, evalLenchk] at h
    split at h <;> cases h

/-! ## Reset and the operations keep the invariant -/

/-- A block just reset, whatever its coming moves (R59). -/
theorem legal_resetOf {n : Nat} (hn : nlimbOk n = true) (script : List Event) :
    { State.resetOf n with script := script }.Legal where
  fits :=
    { nlimb := hn
      regs := fun r => by
        show OperandRegs.zero.get r < _
        rw [OperandRegs.get_zero]
        exact Nat.two_pow_pos _
      draws := fun _ hv => nomatch hv }
  flags :=
    { code := ⟨fun _ => rfl, fun _ => rfl⟩
      codeRange := Nat.zero_le _
      busy := fun hb => nomatch hb
      done := fun hd => nomatch hd }
  port := State.portAgrees_of_idle rfl rfl

section
variable {s : State}

/-- Taking a move off the list. -/
theorem State.Legal.advance (h : s.Legal) (rest : List Event) : (s.advance rest).Legal :=
  h.setUnread

/-- Answering on the bus. -/
theorem State.Legal.respond (h : s.Legal) (a : Response) : (s.respond a).Legal :=
  h.setUnread

/-- A fault of a command in flight: DONE is 0 then, so ERR rises alone, with a code of 1 to 6 (R48, R272). -/
theorem State.Legal.takeFault (h : s.Legal) (hb : s.busy = true) (hp : s.pending = none) (c : FaultCode) :
    (s.takeFault c).Legal where
  fits := h.fits.congr rfl rfl fun _ => id
  flags :=
    { code := ⟨fun hc => absurd hc c.code_ne_zero, fun he => nomatch he⟩
      codeRange := c.code_le.2
      busy := fun hb' => nomatch hb'
      done := fun hd => nomatch hd.symm.trans (h.flags.busy hb).1 }
  port := portAgrees_of_idle rfl hp

/-- A Complete retire of a command in flight: ERR is 0 then (R40), and what it writes fits (R23). -/
theorem State.Legal.complete (h : s.Legal) (hb : s.busy = true) (hp : s.pending = none) {i : Instr} {u : Updates}
    (hu : evaluate i s = .complete u) : (s.complete u).Legal where
  fits :=
    { nlimb := h.fits.nlimb
      regs := fun q => by
        have hdest := evaluate_destBelow h.fits i u
        show (s.x.write u.dest).get q < 2 ^ s.width
        cases hd : u.dest with
        | none => exact h.fits.regs q
        | some d => exact OperandRegs.get_set_lt h.fits.regs (hdest d.1 d.2 hu hd) d.1 q
      draws := h.fits.draws }
  flags :=
    { code := h.flags.code
      codeRange := h.flags.codeRange
      busy := fun hb' => nomatch hb'
      done := fun _ => (h.flags.busy hb).2 }
  port := portAgrees_of_idle rfl hp

/-- A request is that of the MRT in flight, and fewer than ROUNDS answers are in (R54, R166). -/
theorem State.Legal.ask (h : s.Legal) (hb : s.busy = true) {i : Instr} (hd : decode s.cmd = .ok i) {lo hi : Nat}
    (hask : evaluate i s = .needDraw lo hi) : (s.ask lo hi).Legal := by
  obtain ⟨rs1, rfl⟩ := eq_mrt_of_needDraw hask
  obtain ⟨hlen, h5, hodd, rfl, rfl⟩ := mrtTest_needDraw hask
  refine ⟨h.fits.congr rfl rfl fun _ => id, h.flags.congr rfl rfl rfl rfl, ?_, h.port.count, h.port.mrtOnly⟩
  rintro q ⟨⟩
  exact ⟨hb, hlen, rs1, hd, h5, hodd, rfl⟩

/-- An answer is taken as W bits and used by the MRT that asked, which had fewer than ROUNDS (R54, R160). -/
theorem State.Legal.takeAnswer (h : s.Legal) (v : Nat) : (s.takeAnswer v).Legal := by
  rw [State.takeAnswer]
  split
  · exact h
  · rename_i q hq
    obtain ⟨-, hlen, rs1, hmrt, -⟩ := h.port.request q hq
    refine ⟨⟨h.fits.nlimb, h.fits.regs, ?_⟩, h.flags.congr rfl rfl rfl rfl, ?_, ?_, ?_⟩
    · intro a ha
      rcases List.mem_append.1 ha with ha | ha
      · exact h.fits.draws a ha
      · rw [List.mem_singleton.1 ha]
        exact Nat.mod_lt _ (Nat.two_pow_pos _)
    · exact fun _ hp => nomatch hp
    · intro _
      simpa using hlen
    · exact fun _ _ => ⟨rs1, hmrt⟩

/-- A dropped write (R82). -/
theorem State.Legal.dropWrite (h : s.Legal) : s.dropWrite.Legal :=
  h.setUnread

/-- A CTRL write (R47). -/
theorem State.Legal.writeCtrl (h : s.Legal) (w : Word) : (s.writeCtrl w).Legal :=
  h.setUnread

/-- Acceptance starts with no answer and no request, DONE and ERR both 0 (R55, R278). -/
theorem State.Legal.accept (h : s.Legal) (he : s.err = false) (w : Word) : (s.accept w).Legal where
  fits := h.fits.congr rfl rfl fun _ hv => nomatch hv
  flags :=
    { code := h.flags.code
      codeRange := h.flags.codeRange
      busy := fun _ => ⟨rfl, he⟩
      done := fun hd => nomatch hd }
  port :=
    { request := fun _ hq => nomatch hq
      count := fun _ => Nat.zero_le _
      mrtOnly := fun _ hd => absurd rfl hd }

/-- A STATUS write clears flags only, and CODE with ERR (R38, R41). -/
theorem State.Legal.writeStatus (h : s.Legal) (w : Word) : (s.writeStatus w).Legal where
  fits := h.fits.congr rfl rfl fun _ => id
  flags :=
    { code := by
        rw [State.writeStatus_errCode, State.writeStatus_err]
        cases w.getLsbD 2 <;> simp [h.flags.code]
      codeRange := by
        rw [State.writeStatus_errCode]
        split
        · exact Nat.zero_le _
        · exact h.flags.codeRange
      busy := fun hb => by simp [h.flags.busy hb]
      done := fun hd => by
        rw [State.writeStatus_done, Bool.and_eq_true] at hd
        simp [h.flags.done hd.1] }
  port := h.port.congr rfl rfl rfl rfl rfl rfl

/-- A limb stored while idle keeps the register below 2^W (R74). -/
theorem State.Legal.storeLimb (h : s.Legal) (hb : s.busy = false) (r : Reg) {j : Nat} (hj : j < s.nlimb) (w : Word) :
    (s.setReg r (setLimb (s.reg r) j w)).Legal where
  fits := ⟨h.fits.nlimb, OperandRegs.get_set_lt h.fits.regs (setLimb_lt w (h.fits.regs r) hj) r, h.fits.draws⟩
  flags := h.flags.congr rfl rfl rfl rfl
  port := portAgrees_of_idle hb (h.port.pending_of_idle hb)

/-- ROUNDS can be written only while no command counts its answers against it (R82). -/
theorem State.Legal.storeRounds (h : s.Legal) (hb : s.busy = false) (w : Word) : { s with rounds := w }.Legal where
  fits := h.fits.congr rfl rfl fun _ => id
  flags := h.flags.congr rfl rfl rfl rfl
  port := portAgrees_of_idle hb (h.port.pending_of_idle hb)

end

/-- A limb that the window reaches is one of the register's NLIMB limbs (R74, R75). -/
theorem lt_of_resolve_limb {nlimb addr size j : Nat} {r : Reg} (h : resolve nlimb addr size = some (.limb r j)) :
    j < nlimb := by
  rw [resolve] at h
  split at h
  · cases h
  split at h
  · cases h
  split at h
  · rename_i hrange
    cases h
    have : (addr - 0x1000) % (4 * nlimb) < 4 * nlimb := Nat.mod_lt _ (by omega)
    omega
  · cases h

/-- Every store that the window allows keeps the invariant. -/
theorem StoreTo.legal {s s₁ : State} {w : Word} {g : Target} (h : s.Legal)
    (hg : ∀ r j, g = .limb r j → j < s.nlimb) (hs : StoreTo s w g s₁) : s₁.Legal := by
  cases hs with
  | dropBusy _ _ _ _ _ _ => exact h.dropWrite
  | dropErr _ _ => exact h.dropWrite
  | accept _ he => exact h.accept he w
  | status => exact h.writeStatus w
  | ctrl => exact h.writeCtrl w
  | err => exact h
  | param => exact h
  | bs _ => exact h.setUnread
  | mlen _ => exact h.setUnread
  | rounds hb => exact h.storeRounds hb w
  | limb r j hb => exact h.storeLimb hb r (hg r j rfl) w

/-- Every way of making a step keeps the invariant. -/
theorem StepTo.legal {s s' : State} (h : s.Legal) (hs : StepTo s s') : s'.Legal := by
  cases hs with
  | wait rest _ _ => exact h.advance rest
  | illegal rest _ _ hb hp _ => exact (h.advance rest).takeFault hb hp .illegal
  | complete rest i u _ hb hp _ hu => exact (h.advance rest).complete hb hp ((evaluate_advance i s rest).trans hu)
  | fault rest _ c _ hb hp _ _ => exact (h.advance rest).takeFault hb hp c
  | ask rest i lo hi _ hb _ hd hask => exact (h.advance rest).ask hb hd ((evaluate_advance i s rest).trans hask)
  | read _ _ rest x _ => exact (h.advance rest).respond x
  | writeError _ _ _ rest _ _ => exact (h.advance rest).respond .error
  | writeOkay _ _ rest g s₁ _ hg hst =>
    exact (hst.legal (h.advance rest) fun r j hl => lt_of_resolve_limb (hl ▸ hg)).respond .okay
  | answer v rest q _ hq =>
    have ha := (h.advance rest).takeAnswer v
    rwa [State.takeAnswer, State.advance_pending, hq] at ha
  | ignore _ rest _ _ => exact h.advance rest
  | reset rest _ => exact legal_resetOf h.fits.nlimb rest

/-! ## The obligations -/

/-- Settles O9: a step is one of the ways of `StepTo`, and each of them keeps the invariant. -/
theorem stepKeepsLegal : Obligations.StepKeepsLegal := by
  unfold Obligations.StepKeepsLegal
  intro s s' h hs
  exact (stepTo_of_step hs).legal h

/-- Settles O10: reset clears every register and flag, the empty script included. -/
theorem resetStateIsLegal : Obligations.ResetStateIsLegal := by
  unfold Obligations.ResetStateIsLegal
  exact ⟨fun _ hn => legal_resetOf hn [], rfl, legal_resetOf (by decide) []⟩

end Sys2Proof.Machine
end

section
/-! SUPPORT. One transaction on a control register as a step (spec/20_memory.md R71, R73), the words the registers read as
(spec/10_state.md R38, R47, R52), and the statements about a single such transaction. -/

namespace Sys2Proof.Machine

/-! ## A host transaction on a control register -/

section
variable {s : State} {rest : List Event}

/-- A load reads neither the moves to come nor the last answer. -/
@[simp] theorem State.load_advance (s : State) (rest : List Event) (g : Target) : (s.advance rest).load g = s.load g := by
  cases g with
  | ctl c => cases c <;> rfl
  | limb r j => rfl

/-- A write at a control register's offset is the store to it, answered OKAY. -/
theorem step_write_ctl (c : CtlReg) {w : Word} (h : s.script = .hostWrite c.offset 4 w :: rest) :
    step s = .next (((s.advance rest).store w (.ctl c)).respond .okay) := by
  rw [step, h]
  show Host.Outcome.next (State.hostWrite _ _ _ _) = _
  rw [State.hostWrite, resolve_offset]

/-- A read at a control register's offset answers its word and changes nothing else. -/
theorem step_read_ctl (c : CtlReg) (h : s.script = .hostRead c.offset 4 :: rest) :
    step s = .next { s with script := rest, response := some (.data (s.load (.ctl c))) } := by
  rw [step, h]
  show Host.Outcome.next (State.hostRead _ _ _) = _
  rw [State.hostRead, resolve_offset]
  show Host.Outcome.next ((s.advance rest).respond (.data ((s.advance rest).load (.ctl c)))) = _
  rw [State.load_advance]
  rfl

/-- Idle and without ERR a CMD write is accepted (R37). -/
theorem State.writeCmd_of_idle {w : Word} (hb : s.busy = false) (he : s.err = false) : s.writeCmd w = s.accept w := by
  rw [State.writeCmd, if_neg (by simp [hb, he])]

/-- While BUSY or with ERR a CMD write is dropped (R37). -/
theorem State.writeCmd_of_blocked {w : Word} (h : s.busy = true ∨ s.err = true) : s.writeCmd w = s.dropWrite := by
  rw [State.writeCmd, if_pos h]

/-- Idle, a write the busy rule guards is performed (R82). -/
theorem step_write_whenIdle (c : CtlReg) {w : Word} {f : State → State}
    (hf : ∀ s : State, s.store w (.ctl c) = s.whenIdle f) (hb : s.busy = false)
    (h : s.script = .hostWrite c.offset 4 w :: rest) :
    step s = .next ((f (s.advance rest)).respond .okay) := by
  rw [step_write_ctl c h, hf, State.whenIdle, if_neg (by simp [hb])]

end

/-! ## The registers as words -/

/-- A bit of STATUS above the five is 0 (R38). -/
theorem statusWord_high (s : State) {k : Nat} (hk : 5 ≤ k) : s.statusWord.getLsbD k = false := by
  obtain ⟨j, rfl⟩ := Nat.exists_eq_add_of_le' hk
  simp only [State.statusWord, BitVec.getLsbD_append]
  simp

/-- The bits of CTRL as a word (R47). -/
theorem ctrlWord_bits (s : State) : s.ctrlWord.getLsbD 0 = s.ieDone ∧ s.ctrlWord.getLsbD 1 = s.ieErr := by
  simp only [State.ctrlWord, BitVec.getLsbD_append]
  simp

/-- A bit of CTRL above the two is 0 (R47). -/
theorem ctrlWord_high (s : State) {k : Nat} (hk : 2 ≤ k) : s.ctrlWord.getLsbD k = false := by
  obtain ⟨j, rfl⟩ := Nat.exists_eq_add_of_le' hk
  simp only [State.ctrlWord, BitVec.getLsbD_append]
  simp

/-- ERR reads as CODE (R48). -/
theorem errWord_toNat (s : State) : s.errWord.toNat = s.errCode.toNat := by
  rw [State.errWord, BitVec.toNat_setWidth, Nat.mod_eq_of_lt (s.errCode.isLt.trans (by decide))]

/-- PARAM as a number: VERSION 1 at bit 24, NREG 8 at bit 16, NLIMB below (R52). -/
theorem paramWord_toNat {s : State} (h : s.nlimb ≤ 65535) : s.paramWord.toNat = 2 ^ 24 + 8 * 2 ^ 16 + s.nlimb := by
  have hn : s.nlimb < 2 ^ 16 := by omega
  rw [State.paramWord, BitVec.toNat_append, BitVec.toNat_ofNat, Nat.mod_eq_of_lt hn, ← Nat.shiftLeft_add_eq_or_of_lt hn]
  rfl

/-! ## The obligations about one transaction -/

/-- Settles O14: the CMD store is an acceptance or a drop, and a read of CMD loads the field. -/
theorem cmdWriteAcceptedOrDropped : Obligations.CmdWriteAcceptedOrDropped := by
  unfold Obligations.CmdWriteAcceptedOrDropped
  refine ⟨fun s c rest hs => ⟨fun hb he => ?_, fun hbe => ?_⟩, fun s rest hs => step_read_ctl .cmd hs, fun _ => rfl⟩
  · rw [step_write_ctl .cmd hs, State.store, State.writeCmd_of_idle (s := s.advance rest) hb he]
    rfl
  · rw [step_write_ctl .cmd hs, State.store, State.writeCmd_of_blocked (s := s.advance rest) hbe]
    rfl

/-- Settles O15: the STATUS store is `writeStatus` whatever BUSY is, and the word read has the five flags as its bits. -/
theorem statusWriteOneToClear : Obligations.StatusWriteOneToClear := by
  unfold Obligations.StatusWriteOneToClear
  refine ⟨fun s w rest => step_write_ctl .status, fun s rest hs => ⟨s.statusWord, step_read_ctl .status hs, ?_⟩⟩
  obtain ⟨hbusy, hdone, herr, ht, hovr⟩ := statusWord_bits s
  exact ⟨hbusy, hdone, herr, ht, hovr, fun k => statusWord_high s⟩

/-- Settles O29: the CTRL store is `writeCtrl` whatever BUSY is, and the word read has the two enables as its bits. -/
theorem ctrlWriteAlwaysPerformed : Obligations.CtrlWriteAlwaysPerformed := by
  unfold Obligations.CtrlWriteAlwaysPerformed
  refine ⟨fun s w rest => step_write_ctl .ctrl, fun s rest hs => ⟨s.ctrlWord, step_read_ctl .ctrl hs, ?_⟩⟩
  obtain ⟨hdone, herr⟩ := ctrlWord_bits s
  exact ⟨hdone, herr, fun k => ctrlWord_high s⟩

/-- Settles O30: idle, the busy rule lets each of the three stores through; reads load the fields. -/
theorem parameterRegistersStoreWhenIdle : Obligations.ParameterRegistersStoreWhenIdle := by
  unfold Obligations.ParameterRegistersStoreWhenIdle
  exact ⟨fun s w rest hb => ⟨step_write_whenIdle .bs (fun _ => rfl) hb, step_write_whenIdle .mlen (fun _ => rfl) hb,
      step_write_whenIdle .rounds (fun _ => rfl) hb⟩,
    fun s rest => ⟨step_read_ctl .bs, step_read_ctl .mlen, step_read_ctl .rounds⟩⟩

/-- Settles O31: the stores to ERR and PARAM are the identity. -/
theorem errAndParamIgnoreWrites : Obligations.ErrAndParamIgnoreWrites := by
  unfold Obligations.ErrAndParamIgnoreWrites
  refine ⟨?_, fun s rest hs => ⟨s.errWord, step_read_ctl .err hs, errWord_toNat s⟩⟩
  rintro s a w rest (rfl | rfl) hs
  · exact step_write_ctl .err hs
  · exact step_write_ctl .param hs

/-- Settles O11: every field of `State.resetOf`, PARAM by its number. -/
theorem resetStateAsStated : Obligations.ResetStateAsStated := by
  unfold Obligations.ResetStateAsStated
  intro n hn
  have hstatus : (State.resetOf n).statusWord = 0#32 := by simp [State.statusWord, State.resetOf]
  have hctrl : (State.resetOf n).ctrlWord = 0#32 := by simp [State.ctrlWord, State.resetOf]
  exact ⟨OperandRegs.get_zero, rfl, rfl, rfl, rfl, rfl, rfl, hstatus, hctrl, rfl, rfl, rfl, rfl,
    paramWord_toNat hn, rfl, rfl, rfl⟩

end Sys2Proof.Machine
end

section
/-! SUPPORT. What a command writes and what its outcome depends on (spec/10_state.md R31, R45, R46, R57), each said once of
its evaluation, and the statements about commands that follow. -/

namespace Sys2Proof.Machine

/-! ## The destinations of a command -/

/-- The operand register a command writes, if it writes one: its `rd` (R31). -/
@[simp] def destOf : Instr → Option Reg
  | .modexp rd _ _ _ => some rd
  | .gcd rd _ _ => some rd
  | .modinv rd _ _ => some rd
  | .pad rd _ => some rd
  | .unpad rd _ => some rd
  | .mrw _ _ | .mrt _ | .blksz _ | .lenchk => none

/-- Whether a command writes BS (R49). -/
@[simp] def writesBs : Instr → Bool
  | .blksz _ => true
  | _ => false

/-- Whether a command writes T (R45). -/
@[simp] def writesT : Instr → Bool
  | .mrw _ _ | .mrt _ | .gcd _ _ _ => true
  | _ => false

theorem destOf_eq_some_iff {i : Instr} {r : Reg} :
    destOf i = some r ↔
      (∃ rs1 rs2 rs3, i = .modexp r rs1 rs2 rs3) ∨ (∃ rs1 rs2, i = .gcd r rs1 rs2) ∨
        (∃ rs1 rs2, i = .modinv r rs1 rs2) ∨ (∃ rs1, i = .pad r rs1) ∨ ∃ rs1, i = .unpad r rs1 := by
  cases i <;> simp

theorem writesBs_iff {i : Instr} : writesBs i = true ↔ ∃ rs1, i = .blksz rs1 := by
  cases i <;> simp

theorem writesT_iff {i : Instr} :
    writesT i = true ↔ (∃ rs1 rs2, i = .mrw rs1 rs2) ∨ (∃ rs1, i = .mrt rs1) ∨ ∃ rd rs1 rs2, i = .gcd rd rs1 rs2 := by
  cases i <;> simp

/-- If this evaluation completes, its writes are exactly those of command `i`. -/
def Evaluation.WritesOf (i : Instr) (ev : Evaluation) : Prop :=
  ∀ u, ev = .complete u → u.dest.map Prod.fst = destOf i ∧ u.bs.isSome = writesBs i ∧ u.t.isSome = writesT i

@[simp] theorem Evaluation.writesOf_fault (i : Instr) (c : FaultCode) : (Evaluation.fault c).WritesOf i :=
  fun _ h => nomatch h

@[simp] theorem Evaluation.writesOf_complete {i : Instr} {u : Updates} :
    (Evaluation.complete u).WritesOf i ↔
      u.dest.map Prod.fst = destOf i ∧ u.bs.isSome = writesBs i ∧ u.t.isSome = writesT i := by
  constructor
  · exact fun h => h u rfl
  · rintro h _ ⟨⟩
    exact h

/-- The rounds of MRT write T whenever they complete (R164). -/
theorem mrtRounds_writes_t {n : Nat} {u : Updates} : ∀ {draws : List Nat} {k : Nat},
    mrtRounds n k draws = .complete u → u.t.isSome = true
  | draws, 0, h => by
    rw [mrtRounds_zero] at h
    cases h
    rfl
  | [], k + 1, h => nomatch h
  | a :: rest, k + 1, h => by
    rw [mrtRounds] at h
    split at h
    · cases h
    split at h
    · cases h
      rfl
    · exact mrtRounds_writes_t h

/-- MRT writes T whenever it completes (R164). -/
theorem mrtTest_writes_t {n k : Nat} {draws : List Nat} {u : Updates} (h : mrtTest n k draws = .complete u) :
    u.t.isSome = true := by
  rw [mrtTest] at h
  split at h
  · cases h
    rfl
  split at h
  · cases h
    rfl
  split at h
  · cases h
    rfl
  · exact mrtRounds_writes_t h

/-- A command that completes writes its own destinations, all of them, and no other (R31, R45, R57). -/
theorem evaluate_writesOf (i : Instr) (s : State) : (evaluate i s).WritesOf i := by
  cases i with
  | modexp rd rs1 rs2 rs3 =>
    rw [evaluate, evalModexp]
    split <;> simp
  | mrw rs1 rs2 =>
    rw [evaluate, evalMrw]
    split
    · simp
    · split <;> simp
  | mrt rs1 =>
    intro u hu
    obtain ⟨hdest, hbs⟩ := mrtTest_writes hu
    exact ⟨by rw [hdest]; rfl, by rw [hbs]; rfl, mrtTest_writes_t hu⟩
  | gcd rd rs1 rs2 => simp [evaluate, evalGcd]
  | modinv rd rs1 rs2 =>
    rw [evaluate, evalModinv]
    split
    · simp
    · split <;> simp
  | pad rd rs1 =>
    rw [evaluate, evalPad]
    split
    · simp
    · split <;> simp
  | unpad rd rs1 =>
    rw [evaluate, evalUnpad]
    split <;> simp
  | blksz rs1 => simp [evaluate, evalBlksz]
  | lenchk =>
    rw [evaluate, evalLenchk]
    split <;> simp

/-- A register that a destination write changes is the destination. -/
theorem OperandRegs.eq_dest_of_get_write_ne {x : OperandRegs} {d : Option (Reg × Nat)} {r : Reg}
    (h : (x.write d).get r ≠ x.get r) : d.map Prod.fst = some r := by
  cases d with
  | none => exact absurd rfl h
  | some d =>
    by_contra hr
    exact h (OperandRegs.get_set_other x d.2 fun he => hr (congrArg some he.symm))

/-! ## The inputs of a command -/

/-- `a` and `b` agree in everything a command's outcome may depend on (R46, R57). -/
structure SameInputs (a b : State) : Prop where
  nlimb : a.nlimb = b.nlimb
  x : a.x = b.x
  bs : a.bs = b.bs
  mlen : a.mlen = b.mlen
  rounds : a.rounds = b.rounds
  draws : a.draws = b.draws

/-- Evaluation reads the inputs and nothing else (R57, R281). -/
theorem evaluate_congr {a b : State} (h : SameInputs a b) (i : Instr) : evaluate i a = evaluate i b := by
  calc evaluate i a
      = evaluate i { b with
          nlimb := a.nlimb, x := a.x, bs := a.bs, mlen := a.mlen, rounds := a.rounds, draws := a.draws } := by
        cases i <;> rfl
    _ = evaluate i b := by rw [h.nlimb, h.x, h.bs, h.mlen, h.rounds, h.draws]

/-! ## The obligations about commands -/

/-- Settles O22: the evaluations are equal, and a retire or a request treats equal inputs alike. -/
theorem resultDependsOnlyOnInputs : Obligations.ResultDependsOnlyOnInputs := by
  unfold Obligations.ResultDependsOnlyOnInputs
  intro i a b hn hx hbs hm hr hd hba hbb hea heb hpa hpb
  refine ⟨_, _, exec_eq i a, exec_eq i b, ?_⟩
  rw [evaluate_congr ⟨hn, hx, hbs, hm, hr, hd⟩ i]
  cases evaluate i b with
  | complete u =>
    refine ⟨by simp [State.settle, hx], by simp [State.settle, hbs], rfl, hea.trans heb.symm, ?_, hpa.trans hpb.symm, ?_⟩
    · exact fun he => nomatch hea.symm.trans he
    · intro ht
      cases hu : u.t with
      | none => exact absurd (by simp [State.settle, hu]) ht
      | some v => simp [State.settle, hu]
  | fault c => exact ⟨hx, hbs, rfl, rfl, fun _ => rfl, hpa.trans hpb.symm, fun ht => absurd rfl ht⟩
  | needDraw lo hi =>
    exact ⟨hx, hbs, hba.trans hbb.symm, hea.trans heb.symm, fun he => (nomatch hea.symm.trans he), rfl,
      fun ht => absurd rfl ht⟩

/-- Settles O23: only a Complete retire writes a register or BS, and those are the command's own destinations. -/
theorem commandsWriteOnlyTheirDestination : Obligations.CommandsWriteOnlyTheirDestination := by
  unfold Obligations.CommandsWriteOnlyTheirDestination
  intro i s s' hs
  rw [exec_eq] at hs
  cases hs
  have hw := evaluate_writesOf i s
  cases hev : evaluate i s with
  | complete u =>
    obtain ⟨hdest, hbs, -⟩ := hw u hev
    refine ⟨fun r hr => ?_, fun hb => ?_, rfl, rfl, rfl, rfl, rfl, rfl, rfl, rfl, rfl, rfl⟩
    · rw [← destOf_eq_some_iff, ← hdest]
      exact OperandRegs.eq_dest_of_get_write_ne hr
    · rw [← writesBs_iff, ← hbs]
      by_contra hn
      rw [Bool.not_eq_true, Option.isSome_eq_false_iff, Option.isNone_iff_eq_none] at hn
      exact hb (by simp [State.settle, hn])
  | fault _ | needDraw _ _ =>
    exact ⟨fun _ hr => absurd rfl hr, fun hb => absurd rfl hb, rfl, rfl, rfl, rfl, rfl, rfl, rfl, rfl, rfl, rfl⟩

end Sys2Proof.Machine
end

section
/-! SUPPORT. What a step can do to the flags of STATUS and CTRL, said once (spec/10_state.md R37 to R48), and the statements
about when each flag rises and falls. -/

namespace Sys2Proof.Machine

/-! ## What a step does to the flags -/

/-- A limb's offset lies in the limb window and is a multiple of 4 (R74, R80). -/
theorem range_of_resolve_limb {nlimb a j : Nat} {r : Reg} (h : resolve nlimb a 4 = some (.limb r j)) :
    0x1000 ≤ a ∧ a < 0x1000 + 32 * nlimb ∧ a % 4 = 0 := by
  rw [resolve] at h
  split at h
  · cases h
  split at h
  · cases h
  split at h
  · rename_i halign _ hrange
    exact ⟨hrange.1, hrange.2, by omega⟩
  · cases h

/-- The offsets whose writes BUSY drops: CMD, BS, MLEN, ROUNDS and the limbs (R82). -/
def BusyGuarded (s : State) (a : Nat) : Prop :=
  a = 0x00 ∨ a = 0x10 ∨ a = 0x14 ∨ a = 0x18 ∨ (0x1000 ≤ a ∧ a < 0x1000 + 32 * s.nlimb ∧ a % 4 = 0)

/-- A target that is none of STATUS, CTRL, ERR and PARAM stands at a guarded offset (R82). -/
theorem busyGuarded_of_resolve {s : State} {a : Nat} {g : Target} (h : resolve s.nlimb a 4 = some g)
    (hstatus : g ≠ .ctl .status) (hctrl : g ≠ .ctl .ctrl) (herr : g ≠ .ctl .err) (hparam : g ≠ .ctl .param) :
    BusyGuarded s a := by
  cases g with
  | limb r j => exact .inr (.inr (.inr (.inr (range_of_resolve_limb h))))
  | ctl c =>
    have ha := offset_of_resolve h
    cases c with
    | cmd => exact .inl ha
    | bs => exact .inr (.inl ha)
    | mlen => exact .inr (.inr (.inl ha))
    | rounds => exact .inr (.inr (.inr (.inl ha)))
    | status => exact absurd rfl hstatus
    | ctrl => exact absurd rfl hctrl
    | err => exact absurd rfl herr
    | param => exact absurd rfl hparam

/-- The two states have the same flags in STATUS and CTRL. -/
structure SameFlags (s s' : State) : Prop where
  busy : s'.busy = s.busy
  done : s'.done = s.done
  err : s'.err = s.err
  t : s'.t = s.t
  ovr : s'.ovr = s.ovr
  ieDone : s'.ieDone = s.ieDone
  ieErr : s'.ieErr = s.ieErr

/-- The steps by what they do to the flags: the seven moves that write one, and every other move. -/
inductive FlagStep (s : State) : State → Prop
  | same (s') : SameFlags s s' → FlagStep s s'
  | complete (rest i u) : EngineMoves s rest → s.busy = true → s.pending = none → decode s.cmd = .ok i →
      evaluate i s = .complete u → FlagStep s ((s.advance rest).complete u)
  | fault (rest c) : EngineMoves s rest → s.busy = true → s.pending = none →
      FlagStep s ((s.advance rest).takeFault c)
  | accept (w rest) : s.script = .hostWrite 0x00 4 w :: rest → s.busy = false → s.err = false →
      FlagStep s (((s.advance rest).accept w).respond .okay)
  | status (w rest) : s.script = .hostWrite 0x04 4 w :: rest →
      FlagStep s (((s.advance rest).writeStatus w).respond .okay)
  | ctrl (w rest) : s.script = .hostWrite 0x08 4 w :: rest →
      FlagStep s (((s.advance rest).writeCtrl w).respond .okay)
  | drop (a w rest) : s.script = .hostWrite a 4 w :: rest →
      ((s.busy = true ∧ BusyGuarded s a) ∨ (s.err = true ∧ a = 0x00)) →
      FlagStep s ((s.advance rest).dropWrite.respond .okay)
  | reset (rest) : s.script = .reset :: rest → FlagStep s (s.advance rest).resetBlock

/-- A host write that reaches the window is one of these. -/
theorem StoreTo.flagStep {s s₁ : State} {a : Nat} {w : Word} {rest : List Event} {g : Target}
    (hm : s.script = .hostWrite a 4 w :: rest) (hg : resolve s.nlimb a 4 = some g) (h : StoreTo (s.advance rest) w g s₁) :
    FlagStep s (s₁.respond .okay) := by
  cases h with
  | dropBusy _ hb hstatus hctrl herr hparam =>
    exact .drop a w rest hm (.inl ⟨hb, busyGuarded_of_resolve hg hstatus hctrl herr hparam⟩)
  | dropErr _ he => exact .drop a w rest hm (.inr ⟨he, offset_of_resolve hg⟩)
  | accept hb he =>
    obtain rfl := offset_of_resolve hg
    exact .accept w rest hm hb he
  | status =>
    obtain rfl := offset_of_resolve hg
    exact .status w rest hm
  | ctrl =>
    obtain rfl := offset_of_resolve hg
    exact .ctrl w rest hm
  | err | param | bs _ | mlen _ | rounds _ | limb _ _ _ => exact .same _ ⟨rfl, rfl, rfl, rfl, rfl, rfl, rfl⟩

/-- Every step is one of these. -/
theorem flagStep_of_step {s s' : State} (hs : step s = .next s') : FlagStep s s' := by
  cases stepTo_of_step hs with
  | wait _ _ _ | ask _ _ _ _ _ _ _ _ _ | read _ _ _ _ _ | writeError _ _ _ _ _ _ | answer _ _ _ _ _ | ignore _ _ _ _ =>
    exact .same _ ⟨rfl, rfl, rfl, rfl, rfl, rfl, rfl⟩
  | illegal rest _ hm hb hp _ => exact .fault rest _ hm hb hp
  | complete rest i u hm hb hp hd hu => exact .complete rest i u hm hb hp hd hu
  | fault rest _ c hm hb hp _ _ => exact .fault rest c hm hb hp
  | writeOkay _ _ _ _ _ hm hg hst => exact hst.flagStep hm hg
  | reset rest hm => exact .reset rest hm

/-! ## When each flag rises and falls -/

section
variable {s s' : State}

/-- BUSY rises by an acceptance (R39). -/
theorem FlagStep.busy_rises (h : FlagStep s s') (h0 : s.busy = false) (h1 : s'.busy = true) :
    ∃ (w : Word) (rest : List Event), s.script = .hostWrite 0 4 w :: rest ∧ s.err = false ∧ s'.cmd = w := by
  cases h with
  | accept w rest hm _ he => exact ⟨w, rest, hm, he, rfl⟩
  | same _ hf => exact nomatch h0.symm.trans (hf.busy.symm.trans h1)
  | status _ _ _ | ctrl _ _ _ | drop _ _ _ _ _ => exact nomatch h0.symm.trans h1
  | complete _ _ _ _ _ _ _ _ | fault _ _ _ _ _ | reset _ _ => exact nomatch h1

/-- BUSY falls by a retire or reset (R39). -/
theorem FlagStep.busy_falls (h : FlagStep s s') (h1 : s.busy = true) (h0 : s'.busy = false) :
    (∃ rest, s.script = .reset :: rest) ∨
      ∃ rest, EngineMoves s rest ∧ s.pending = none ∧ (s'.done = true ∨ s'.err = true) := by
  cases h with
  | complete rest _ _ hm _ hp _ _ => exact .inr ⟨rest, hm, hp, .inl rfl⟩
  | fault rest _ hm _ hp => exact .inr ⟨rest, hm, hp, .inr rfl⟩
  | reset rest hm => exact .inl ⟨rest, hm⟩
  | same _ hf => exact nomatch h0.symm.trans (hf.busy.trans h1)
  | status _ _ _ | ctrl _ _ _ | drop _ _ _ _ _ => exact nomatch h0.symm.trans h1
  | accept _ _ _ _ _ => exact nomatch h0

/-- DONE rises at a Complete retire (R40). -/
theorem FlagStep.done_rises (h : FlagStep s s') (h0 : s.done = false) (h1 : s'.done = true) :
    ∃ rest i u, EngineMoves s rest ∧ s.busy = true ∧ s.pending = none ∧ decode s.cmd = .ok i ∧
      evaluate i s = .complete u ∧ s'.busy = false := by
  cases h with
  | complete rest i u hm hb hp hd hu => exact ⟨rest, i, u, hm, hb, hp, hd, hu, rfl⟩
  | same _ hf => exact nomatch h0.symm.trans (hf.done.symm.trans h1)
  | fault _ _ _ _ _ | ctrl _ _ _ | drop _ _ _ _ _ => exact nomatch h0.symm.trans h1
  | status _ _ _ => simp [h0] at h1
  | accept _ _ _ _ _ | reset _ _ => exact nomatch h1

/-- DONE falls by an acceptance, a STATUS write with bit 1 set, or reset (R40). -/
theorem FlagStep.done_falls (h : FlagStep s s') (h1 : s.done = true) (h0 : s'.done = false) :
    (∃ w rest, s.script = .hostWrite 0 4 w :: rest ∧ s.busy = false ∧ s.err = false) ∨
      (∃ w rest, s.script = .hostWrite 0x04 4 w :: rest ∧ w.getLsbD 1 = true) ∨ ∃ rest, s.script = .reset :: rest := by
  cases h with
  | accept w rest hm hb he => exact .inl ⟨w, rest, hm, hb, he⟩
  | status w rest hm => exact .inr (.inl ⟨w, rest, hm, by simpa [h1] using h0⟩)
  | reset rest hm => exact .inr (.inr ⟨rest, hm⟩)
  | same _ hf => exact nomatch h0.symm.trans (hf.done.trans h1)
  | fault _ _ _ _ _ | ctrl _ _ _ | drop _ _ _ _ _ => exact nomatch h0.symm.trans h1
  | complete _ _ _ _ _ _ _ _ => exact nomatch h0

/-- ERR rises at a Fault retire (R48). -/
theorem FlagStep.err_rises (h : FlagStep s s') (h0 : s.err = false) (h1 : s'.err = true) :
    ∃ rest c, EngineMoves s rest ∧ s.busy = true ∧ s.pending = none ∧ s' = (s.advance rest).takeFault c := by
  cases h with
  | fault rest c hm hb hp => exact ⟨rest, c, hm, hb, hp, rfl⟩
  | same _ hf => exact nomatch h0.symm.trans (hf.err.symm.trans h1)
  | complete _ _ _ _ _ _ _ _ | accept _ _ _ _ _ | ctrl _ _ _ | drop _ _ _ _ _ => exact nomatch h0.symm.trans h1
  | status _ _ _ => simp [h0] at h1
  | reset _ _ => exact nomatch h1

/-- OVR rises by a dropped write (R42). -/
theorem FlagStep.ovr_rises (h : FlagStep s s') (h0 : s.ovr = false) (h1 : s'.ovr = true) :
    ∃ a w rest, s.script = .hostWrite a 4 w :: rest ∧
      ((s.busy = true ∧ BusyGuarded s a) ∨ (s.err = true ∧ a = 0x00)) := by
  cases h with
  | drop a w rest hm hd => exact ⟨a, w, rest, hm, hd⟩
  | same _ hf => exact nomatch h0.symm.trans (hf.ovr.symm.trans h1)
  | complete _ _ _ _ _ _ _ _ | fault _ _ _ _ _ | accept _ _ _ _ _ | ctrl _ _ _ => exact nomatch h0.symm.trans h1
  | status _ _ _ => simp [h0] at h1
  | reset _ _ => exact nomatch h1

/-- OVR falls by a STATUS write with bit 4 set or by reset (R42). -/
theorem FlagStep.ovr_falls (h : FlagStep s s') (h1 : s.ovr = true) (h0 : s'.ovr = false) :
    (∃ w rest, s.script = .hostWrite 0x04 4 w :: rest ∧ w.getLsbD 4 = true) ∨ ∃ rest, s.script = .reset :: rest := by
  cases h with
  | status w rest hm => exact .inl ⟨w, rest, hm, by simpa [h1] using h0⟩
  | reset rest hm => exact .inr ⟨rest, hm⟩
  | same _ hf => exact nomatch h0.symm.trans (hf.ovr.trans h1)
  | complete _ _ _ _ _ _ _ _ | fault _ _ _ _ _ | accept _ _ _ _ _ | ctrl _ _ _ => exact nomatch h0.symm.trans h1
  | drop _ _ _ _ _ => exact nomatch h0

/-- T changes at a Complete retire that writes it, or by reset (R45). -/
theorem FlagStep.t_changes (h : FlagStep s s') (ht : s'.t ≠ s.t) :
    (∃ rest, s.script = .reset :: rest) ∨
      ∃ i, s.busy = true ∧ decode s.cmd = .ok i ∧ s'.done = true ∧ s'.busy = false ∧ writesT i = true := by
  cases h with
  | reset rest hm => exact .inl ⟨rest, hm⟩
  | complete _ i u _ hb _ hd hu =>
    obtain ⟨-, -, hwrites⟩ := evaluate_writesOf i s u hu
    refine .inr ⟨i, hb, hd, rfl, rfl, hwrites ▸ Option.isSome_iff_ne_none.2 fun hn => ht ?_⟩
    simp [hn]
  | same _ hf => exact absurd hf.t ht
  | fault _ _ _ _ _ | accept _ _ _ _ _ | status _ _ _ | ctrl _ _ _ | drop _ _ _ _ _ => exact absurd rfl ht

/-- `irq` as a proposition (R58). -/
theorem irq_iff : s.irq = true ↔ (s.done = true ∧ s.ieDone = true) ∨ (s.err = true ∧ s.ieErr = true) := by
  simp [State.irq]

/-- `irq` is a function of the flags (R280). -/
theorem SameFlags.irq (h : SameFlags s s') : s'.irq = s.irq := by
  rw [State.irq, State.irq, h.done, h.err, h.ieDone, h.ieErr]

/-- `irq` does not rise where DONE and ERR do not and the enables stay. -/
theorem irq_not_rises (h0 : s.irq = false) (h1 : s'.irq = true) (hd : s'.done = true → s.done = true)
    (he : s'.err = true → s.err = true) (hid : s'.ieDone = s.ieDone) (hie : s'.ieErr = s.ieErr) : False := by
  rw [irq_iff, hid, hie] at h1
  exact nomatch h0.symm.trans (irq_iff.2 (h1.imp (And.imp_left hd) (And.imp_left he)))

/-- `irq` rises at a retire or by a CTRL write (R280). -/
theorem FlagStep.irq_rises (h : FlagStep s s') (h0 : s.irq = false) (h1 : s'.irq = true) :
    (s.busy = true ∧ s'.busy = false) ∨ ∃ w rest, s.script = .hostWrite 0x08 4 w :: rest := by
  cases h with
  | complete _ _ _ _ hb _ _ _ => exact .inl ⟨hb, rfl⟩
  | fault _ _ _ hb _ => exact .inl ⟨hb, rfl⟩
  | ctrl w rest hm => exact .inr ⟨w, rest, hm⟩
  | same _ hf => exact nomatch h0.symm.trans (hf.irq.symm.trans h1)
  | accept _ _ _ _ _ => exact (irq_not_rises h0 h1 (fun hd => nomatch hd) id rfl rfl).elim
  | status _ _ _ =>
    exact (irq_not_rises h0 h1 Bool.and_elim_left Bool.and_elim_left rfl rfl).elim
  | drop _ _ _ _ _ => exact (irq_not_rises h0 h1 id id rfl rfl).elim
  | reset _ _ => exact nomatch h1

/-- `irq` falls by a write to STATUS or CTRL, an acceptance, or reset (R280). -/
theorem FlagStep.irq_falls (h : FlagStep s s') (h1 : s.irq = true) (h0 : s'.irq = false) :
    (∃ a w rest, s.script = .hostWrite a 4 w :: rest ∧ (a = 0x04 ∨ a = 0x08 ∨ (a = 0x00 ∧ s.busy = false))) ∨
      ∃ rest, s.script = .reset :: rest := by
  cases h with
  | status w rest hm => exact .inl ⟨_, w, rest, hm, .inl rfl⟩
  | ctrl w rest hm => exact .inl ⟨_, w, rest, hm, .inr (.inl rfl)⟩
  | accept w rest hm hb _ => exact .inl ⟨_, w, rest, hm, .inr (.inr ⟨rfl, hb⟩)⟩
  | reset rest hm => exact .inr ⟨rest, hm⟩
  | same _ hf => exact nomatch h0.symm.trans (hf.irq.trans h1)
  | complete _ _ _ _ _ _ _ _ => exact (irq_not_rises h0 h1 (fun _ => rfl) id rfl rfl).elim
  | fault _ _ _ _ _ => exact (irq_not_rises h0 h1 id (fun _ => rfl) rfl rfl).elim
  | drop _ _ _ _ _ => exact (irq_not_rises h0 h1 id id rfl rfl).elim

end

/-! ## The obligations about the flags -/

/-- Settles O13: of the moves that write a flag, only an acceptance sets BUSY, and only a retire or reset clears it. -/
theorem busyChangesOnlyByAcceptRetireReset : Obligations.BusyChangesOnlyByAcceptRetireReset := by
  unfold Obligations.BusyChangesOnlyByAcceptRetireReset
  exact ⟨fun s s' hs => ⟨(flagStep_of_step hs).busy_rises, (flagStep_of_step hs).busy_falls⟩, fun _ => rfl⟩

/-- Settles O16: only a Complete retire sets DONE; a step on which ERR rises is a Fault retire, which leaves DONE. -/
theorem doneRisesOnlyAtComplete : Obligations.DoneRisesOnlyAtComplete := by
  unfold Obligations.DoneRisesOnlyAtComplete
  refine ⟨fun s s' hs => ⟨(flagStep_of_step hs).done_rises, (flagStep_of_step hs).done_falls, fun h0 h1 => ?_⟩,
    fun _ => rfl⟩
  obtain ⟨rest, c, -, -, -, rfl⟩ := (flagStep_of_step hs).err_rises h0 h1
  rfl

/-- Settles O17: a step on which ERR rises is a Fault retire, and `takeFault` writes BUSY, ERR and the code only. -/
theorem faultsArePrecise : Obligations.FaultsArePrecise := by
  unfold Obligations.FaultsArePrecise
  intro s s' hs h0 h1
  obtain ⟨rest, c, hm, hb, hp, rfl⟩ := (flagStep_of_step hs).err_rises h0 h1
  obtain ⟨hmin, hmax⟩ := c.code_le
  exact ⟨rest, hm, hb, hp, hmin, hmax, takeFault_faultedFrom (s.advance rest) c⟩

/-- Settles O19: only a drop sets OVR; only a STATUS write or reset clears it. -/
theorem ovrTracksDroppedWrites : Obligations.OvrTracksDroppedWrites := by
  unfold Obligations.OvrTracksDroppedWrites
  exact fun s s' hs => ⟨(flagStep_of_step hs).ovr_rises, (flagStep_of_step hs).ovr_falls⟩

/-- Settles O20: the commands that write T when they complete are those of `writesT`, and no other move but reset
changes it. -/
theorem tFlagWrittenOnlyByVerdictCommands : Obligations.TFlagWrittenOnlyByVerdictCommands := by
  unfold Obligations.TFlagWrittenOnlyByVerdictCommands
  refine ⟨fun i s u hu => ?_, fun s s' hs ht => ?_, fun s rest hs => ⟨(s.advance rest).resetBlock, ?_, rfl⟩⟩
  · obtain ⟨-, -, hwrites⟩ := evaluate_writesOf i s u hu
    rw [← Option.isSome_iff_ne_none, hwrites, writesT_iff]
  · simpa only [writesT_iff] using (flagStep_of_step hs).t_changes ht
  · rw [step, hs]
    rfl

/-- Settles O25: `irq` is read off the flags, and each move that writes one either retires, writes CTRL, or does not
raise it. -/
theorem irqRisesAndFallsAsStated : Obligations.IrqRisesAndFallsAsStated := by
  unfold Obligations.IrqRisesAndFallsAsStated
  exact ⟨fun _ => irq_iff, fun s s' hs => ⟨(flagStep_of_step hs).irq_rises, (flagStep_of_step hs).irq_falls⟩,
    fun _ => rfl⟩

end Sys2Proof.Machine
end

section
/-! SUPPORT. The engine's turn and the random source's answer as steps (spec/10_state.md R54 to R57), what stays while a
command is in flight (R34, R82), and a whole run of MRT from acceptance to retire (spec/41_miller_rabin.md R164). -/

namespace Sys2Proof.Machine

/-! ## The engine's turn, an answer, and NLIMB -/

section
variable {s : State} {rest : List Event}

/-- With a command in flight and no request outstanding, the engine's turn settles the command (R55, R56, R106). -/
theorem step_settles {i : Instr} (hm : EngineMoves s rest) (hb : s.busy = true) (hp : s.pending = none)
    (hd : decode s.cmd = .ok i) : step s = .next ((s.advance rest).settle (evaluate i s)) := by
  have hready : (s.advance rest).engineReady = true := by simp [State.engineReady, hb, hp]
  rw [step_engine hm, engineTurn, if_pos hready, runCommand, State.advance_cmd, hd, ← evaluate_advance i s rest]
  exact exec_eq i _

/-- Idle or waiting, the engine's turn only takes its move off the list (R56, R319). -/
theorem step_waits (hm : EngineMoves s rest) (h : s.busy = false ∨ s.pending ≠ none) :
    step s = .next (s.advance rest) := by
  have hready : ¬(s.advance rest).engineReady = true := by simpa [State.engineReady, imp_iff_not_or] using h
  rw [step_engine hm, engineTurn, if_neg hready]

/-- An answer's step (R56). -/
theorem step_answer {v : Nat} (h : s.script = .answer v :: rest) : step s = .next ((s.advance rest).takeAnswer v) := by
  rw [step, h]
  rfl

/-- An answer while a request is outstanding is recorded, and the request ends (R56, R160). -/
theorem State.takeAnswer_of_pending {v : Nat} (hp : s.pending ≠ none) (hv : v < 2 ^ s.width) :
    s.takeAnswer v = { s with draws := s.draws ++ [v], pending := none } := by
  rw [State.takeAnswer]
  split
  · contradiction
  · rw [Nat.mod_eq_of_lt hv]

/-- An answer while none is outstanding is ignored (R302). -/
theorem State.takeAnswer_of_not_pending {v : Nat} (hp : s.pending = none) : s.takeAnswer v = s := by
  rw [State.takeAnswer, hp]

/-- No store changes NLIMB. -/
theorem StoreTo.nlimb {w : Word} {g : Target} {s₁ : State} (h : StoreTo s w g s₁) : s₁.nlimb = s.nlimb := by
  cases h <;> rfl

/-- No step changes NLIMB (R52). -/
theorem StepTo.nlimb {s' : State} (h : StepTo s s') : s'.nlimb = s.nlimb := by
  cases h with
  | writeOkay _ _ _ _ _ _ _ hst => exact hst.nlimb
  | _ => rfl

end

/-! ## A command in flight keeps its inputs -/

/-- From `s` to `s'` the inputs of the command in flight stay, and the answers only grow (R34, R57). -/
structure InputsKept (s s' : State) : Prop where
  x : s'.x = s.x
  cmd : s'.cmd = s.cmd
  bs : s'.bs = s.bs
  mlen : s'.mlen = s.mlen
  rounds : s'.rounds = s.rounds
  nlimb : s'.nlimb = s.nlimb
  t : s'.t = s.t
  draws : ∃ more, s'.draws = s.draws ++ more

/-- While BUSY a store changes no input (R82). -/
theorem StoreTo.inputsKept {s s₁ : State} {w : Word} {g : Target} (h : StoreTo s w g s₁) (hb : s.busy = true) :
    InputsKept s s₁ := by
  cases h with
  | dropBusy _ _ _ _ _ _ | dropErr _ _ | status | ctrl | err | param =>
    exact ⟨rfl, rfl, rfl, rfl, rfl, rfl, rfl, [], (List.append_nil _).symm⟩
  | accept hi _ | bs hi | mlen hi | rounds hi | limb _ _ hi => exact nomatch hi.symm.trans hb

/-- A step on which BUSY stays 1 changes no input, whoever moves. -/
theorem StepTo.inputsKept {s s' : State} (h : StepTo s s') (hb : s.busy = true) (hb' : s'.busy = true) :
    InputsKept s s' := by
  cases h with
  | wait _ _ _ | ask _ _ _ _ _ _ _ _ _ | read _ _ _ _ _ | writeError _ _ _ _ _ _ | ignore _ _ _ _ =>
    exact ⟨rfl, rfl, rfl, rfl, rfl, rfl, rfl, [], (List.append_nil _).symm⟩
  | answer v _ _ _ _ => exact ⟨rfl, rfl, rfl, rfl, rfl, rfl, rfl, [v % 2 ^ s.width], rfl⟩
  | writeOkay _ _ _ _ _ _ _ hst =>
    obtain ⟨hx, hcmd, hbs, hmlen, hrounds, hnlimb, ht, hdraws⟩ := hst.inputsKept hb
    exact ⟨hx, hcmd, hbs, hmlen, hrounds, hnlimb, ht, hdraws⟩
  | illegal _ _ _ _ _ _ | complete _ _ _ _ _ _ _ _ | fault _ _ _ _ _ _ _ _ | reset _ _ => exact nomatch hb'

/-! ## MRT answered round by round -/

/-- `draws` are witnesses in [2, n - 2] that all pass (R152, R164). -/
def AllPass (n : Nat) (draws : List Nat) : Prop := ∀ a ∈ draws, 2 ≤ a ∧ a ≤ n - 2 ∧ mrRound n a = .pass

/-- After passing answers the test of an odd n of 5 or more is the rounds that are left (R164). -/
theorem mrtTest_of_allPass {n k : Nat} {draws : List Nat} (h5 : 5 ≤ n) (hodd : n % 2 = 1) (hp : AllPass n draws)
    (hk : draws.length ≤ k) : mrtTest n k draws = mrtRounds n (k - draws.length) [] := by
  have hr := mrtRounds_append [] hp hk
  rw [List.append_nil] at hr
  rw [mrtTest, if_neg (by omega), if_neg (by omega), if_neg (by omega), hr]

/-- An MRT of an odd n of 5 or more is in flight with no request outstanding; the answers in and the answers `todo` all pass
and are ROUNDS in number. -/
structure MrtReady (s : State) (rs1 : Reg) (todo : List Nat) : Prop where
  busy : s.busy = true
  pending : s.pending = none
  cmd : decode s.cmd = .ok (.mrt rs1)
  five : 5 ≤ s.reg rs1
  odd : s.reg rs1 % 2 = 1
  fits : s.reg rs1 < 2 ^ s.width
  count : s.draws.length + todo.length = s.rounds.toNat
  pass : AllPass (s.reg rs1) (s.draws ++ todo)

/-- `s` once the answer `a` to MRT's request is in. -/
def State.mrtAnswered (s : State) (a : Nat) (rest : List Event) : State :=
  { s with draws := s.draws ++ [a], pending := none, script := rest, response := none }

/-- `s` once the answers `todo` are in and MRT has retired with T = 1. -/
def State.mrtPassed (s : State) (todo : List Nat) (rest : List Event) : State :=
  { s with
    busy := false, done := true, t := true, draws := s.draws ++ todo, pending := none, script := rest, response := none }

section
variable {s : State} {rs1 : Reg} {a : Nat} {todo : List Nat} {rest : List Event}

/-- The evaluation of such an MRT is the rounds still to be answered (R164). -/
theorem MrtReady.evaluate_eq (h : MrtReady s rs1 todo) :
    evaluate (.mrt rs1) s = mrtRounds (s.reg rs1) todo.length [] := by
  have hpass : AllPass (s.reg rs1) s.draws := fun b hb => h.pass b (List.mem_append_left _ hb)
  rw [evaluate, evalMrt, mrtTest_of_allPass h.five h.odd hpass (by have := h.count; omega), ← h.count,
    Nat.add_sub_cancel_left]

/-- With every answer in, MRT's turn retires it with T = 1 (R57, R164). -/
theorem MrtReady.step_retires (h : MrtReady s rs1 []) (hm : EngineMoves s rest) :
    step s = .next (s.mrtPassed [] rest) := by
  have hev := h.evaluate_eq
  rw [List.length_nil, mrtRounds_zero] at hev
  rw [step_settles hm h.busy h.pending h.cmd, hev, State.mrtPassed, List.append_nil, ← h.pending]
  rfl

/-- With an answer missing, MRT's turn asks for one in [2, n - 2] (R56, R164). -/
theorem MrtReady.step_asks (h : MrtReady s rs1 (a :: todo)) (hm : EngineMoves s rest) :
    step s = .next ((s.advance rest).ask 2 (s.reg rs1 - 2)) := by
  rw [step_settles hm h.busy h.pending h.cmd, h.evaluate_eq]
  rfl

/-- The answer's step after it: a witness is below n, so the port takes it whole (R160). -/
theorem MrtReady.step_answered (h : MrtReady s rs1 (a :: todo)) :
    step ((s.advance (.answer a :: rest)).ask 2 (s.reg rs1 - 2)) = .next (s.mrtAnswered a rest) := by
  obtain ⟨-, hle, -⟩ := h.pass a (by simp)
  have ha : a < 2 ^ s.width := (hle.trans (Nat.sub_le _ _)).trans_lt h.fits
  have htaken : (((s.advance (.answer a :: rest)).ask 2 (s.reg rs1 - 2)).advance rest).takeAnswer a = s.mrtAnswered a rest :=
    State.takeAnswer_of_pending (Option.some_ne_none _) ha
  rw [step_answer rfl, htaken]

/-- With the answer in, MRT is ready for the next one. -/
theorem MrtReady.answered (h : MrtReady s rs1 (a :: todo)) (rest : List Event) :
    MrtReady (s.mrtAnswered a rest) rs1 todo where
  busy := h.busy
  pending := rfl
  cmd := h.cmd
  five := h.five
  odd := h.odd
  fits := h.fits
  count := by
    have hcount := h.count
    simp only [State.mrtAnswered, List.length_append, List.length_cons, List.length_nil] at hcount ⊢
    omega
  pass := by
    show AllPass _ (s.draws ++ [a] ++ todo)
    rw [List.append_assoc]
    exact h.pass

/-- One step of a run. -/
theorem runFor_succ {k : Nat} {s' : State} (h : step s = .next s') : runFor (k + 1) s = runFor k s' := by
  rw [runFor, h]

end

/-- The engine's turns and the answers, one after another, end in MRT's retire with T = 1 (R56, R164). -/
theorem MrtReady.runFor_eq {rs1 : Reg} (rest : List Event) : ∀ {todo : List Nat} {s : State}, MrtReady s rs1 todo →
    s.script = .engine :: (todo.flatMap fun a => [Event.answer a, Event.engine]) ++ rest →
      runFor (2 * todo.length + 1) s = .next (s.mrtPassed todo rest)
  | [], s, h, hs => by
    rw [List.length_nil, runFor_succ (h.step_retires (.inl hs))]
    rfl
  | a :: todo, s, h, hs => by
    have hlen : 2 * (a :: todo).length + 1 = 2 * todo.length + 1 + 1 + 1 := by
      rw [List.length_cons]
      omega
    have hmoves : s.script =
        .engine :: .answer a :: (.engine :: (todo.flatMap fun a => [Event.answer a, Event.engine]) ++ rest) := hs
    rw [hlen, runFor_succ (h.step_asks (.inl hmoves)), runFor_succ h.step_answered, (h.answered _).runFor_eq rest rfl]
    simp [State.mrtAnswered, State.mrtPassed]

/-! ## The obligations about the engine and the port -/

/-- Settles O5: the engine's turn settles the decoded command's evaluation, which is what `exec` does. -/
theorem stepRunsDecodedCommand : Obligations.StepRunsDecodedCommand := by
  unfold Obligations.StepRunsDecodedCommand
  intro s rest i hm hb hp hd
  rw [step_settles hm hb hp hd, ← evaluate_advance i s rest]
  exact (exec_eq i (s.advance rest)).symm

/-- Settles O7: the engine is not ready, so its turn leaves the state. -/
theorem engineWaitsWhenNothingEnabled : Obligations.EngineWaitsWhenNothingEnabled := by
  unfold Obligations.EngineWaitsWhenNothingEnabled
  exact fun s rest => step_waits

/-- Settles O21: every way of making a step that leaves BUSY keeps the inputs. -/
theorem busyFreezesCommandInputs : Obligations.BusyFreezesCommandInputs := by
  unfold Obligations.BusyFreezesCommandInputs
  intro s s' hs hb hb'
  obtain ⟨hx, hcmd, hbs, hmlen, hrounds, hnlimb, ht, hdraws⟩ := (stepTo_of_step hs).inputsKept hb hb'
  exact ⟨hx, hcmd, hbs, hmlen, hrounds, hnlimb, ht, hdraws⟩

/-- Settles O33: PARAM's number gives its fields, and for W = 2048, NLIMB being 64, the whole word. -/
theorem paramReadsItsConstant : Obligations.ParamReadsItsConstant := by
  unfold Obligations.ParamReadsItsConstant
  refine ⟨fun s rest hs hn => ⟨s.paramWord, step_read_ctl .param hs, ?_⟩, fun s s' hs => (stepTo_of_step hs).nlimb⟩
  rw [paramWord_toNat hn]
  refine ⟨by omega, by omega, by omega, by omega, fun hw => BitVec.eq_of_toNat_eq ?_⟩
  have h64 : s.nlimb = 64 := by
    rw [State.width] at hw
    omega
  rw [paramWord_toNat hn, h64]
  rfl

/-- Settles O37: `takeAnswer` records the answer exactly while a request is pending. -/
theorem answerTakenOnlyWhilePending : Obligations.AnswerTakenOnlyWhilePending := by
  unfold Obligations.AnswerTakenOnlyWhilePending
  intro s v rest hv hs
  refine ⟨fun hp => ?_, fun hp => ?_⟩
  · rw [step_answer hs, State.takeAnswer_of_pending (s := s.advance rest) hp hv]
    rfl
  · rw [step_answer hs, State.takeAnswer_of_not_pending (s := s.advance rest) hp]
    rfl

/-- Settles O42: the accepted MRT is ready for all its answers, and each pair of moves takes one of them. -/
theorem mrtRetiresWhenAnswered : Obligations.MrtRetiresWhenAnswered := by
  unfold Obligations.MrtRetiresWhenAnswered
  intro s rs1 answers rest hlegal hb hp hdraws hd h5 hodd hlen hpass hs
  have hready : MrtReady s rs1 answers :=
    { busy := hb
      pending := hp
      cmd := hd
      five := h5
      odd := hodd
      fits := hlegal.fits.regs rs1
      count := by rw [hdraws, hlen, List.length_nil, Nat.zero_add]
      pass := by rwa [hdraws] }
  refine ⟨_, hready.runFor_eq rest hs, ?_⟩
  rw [State.mrtPassed, hdraws, List.nil_append, hp]

end Sys2Proof.Machine
end

section
/-! SUPPORT. The register window (spec/20_memory.md): the map from offsets to targets read both ways (R72 to R75), a host
transaction as a step (R71, R80 to R83), a register as its limbs (R74, R76), and the visibility of an accepted command (R86);
and the statements about the window. -/

namespace Sys2Proof.Machine

/-! ## The map of the window -/

theorem index_lt (r : Reg) : r.index < 8 := by cases r <;> decide

@[simp] theorem ofIndex_index (r : Reg) : Reg.ofIndex r.index = r := by cases r <;> rfl

theorem index_ofIndex {q : Nat} (h : q < 8) : (Reg.ofIndex q).index = q := by interval_cases q <;> rfl

/-- An offset reaches a control register exactly when it is that register's (R73). -/
theorem resolve_ctl_iff {n a : Nat} {c : CtlReg} : resolve n a 4 = some (.ctl c) ↔ a = c.offset :=
  ⟨offset_of_resolve, fun h => h ▸ resolve_offset n c⟩

/-- An aligned offset among the limbs reaches one, the register by the quotient by 4 * NLIMB, the limb by the rest (R74). -/
theorem resolve_of_limb_range {n a : Nat} (hlo : 0x1000 ≤ a) (hhi : a < 0x1000 + 32 * n) (ha : a % 4 = 0) :
    resolve n a 4 = some (.limb (.ofIndex ((a - 0x1000) / (4 * n))) ((a - 0x1000) % (4 * n) / 4)) := by
  rw [resolve, if_neg (by omega), if_neg (by omega), if_pos ⟨hlo, hhi⟩]

/-- The offset of limb `j` of `r` reaches it (R74). -/
theorem resolve_limbOffset {n j : Nat} (r : Reg) (hj : j < n) : resolve n (limbOffset n r j) 4 = some (.limb r j) := by
  have hoff : limbOffset n r j = 0x1000 + (4 * j + 4 * n * r.index) := by rw [limbOffset]; ring
  have hend : 4 * n * r.index + 4 * n ≤ 32 * n := by nlinarith [index_lt r]
  have halign : 4 * n * r.index % 4 = 0 := by rw [mul_assoc]; exact Nat.mul_mod_right 4 _
  rw [hoff, resolve_of_limb_range (by omega) (by omega) (by omega), Nat.add_sub_cancel_left,
    Nat.add_mul_div_left _ _ (by omega), Nat.div_eq_of_lt (by omega), Nat.add_mul_mod_self_left,
    Nat.mod_eq_of_lt (by omega), Nat.mul_div_cancel_left j (by decide), Nat.zero_add, ofIndex_index]

/-- Only its offset reaches a limb. -/
theorem limbOffset_of_resolve {n a j : Nat} {r : Reg} (h : resolve n a 4 = some (.limb r j)) : a = limbOffset n r j := by
  obtain ⟨hlo, hhi, ha⟩ := range_of_resolve_limb h
  rw [resolve_of_limb_range hlo hhi ha] at h
  cases h
  have hquot : (a - 0x1000) / (4 * n) < 8 := Nat.div_lt_of_lt_mul (by omega)
  have halign : (a - 0x1000) % (4 * n) % 4 = 0 := by
    rw [Nat.mod_mod_of_dvd _ (Nat.dvd_mul_right 4 n)]
    omega
  have hsplit := Nat.div_add_mod (a - 0x1000) (4 * n)
  rw [limbOffset, index_ofIndex hquot, mul_assoc, mul_comm _ (4 * n)]
  omega

/-- An offset reaches a limb exactly when the register has that limb and the offset is the limb's (R74, R75). -/
theorem resolve_limb_iff {n a j : Nat} {r : Reg} :
    resolve n a 4 = some (.limb r j) ↔ j < n ∧ a = limbOffset n r j := by
  constructor
  · exact fun h => ⟨lt_of_resolve_limb h, limbOffset_of_resolve h⟩
  · rintro ⟨hj, rfl⟩
    exact resolve_limbOffset r hj

/-- Another size, a misaligned offset, the hole and what lies past x7's last limb reach nothing (R75, R80). -/
theorem resolve_outside {n a size : Nat}
    (h : size ≠ 4 ∨ a % 4 ≠ 0 ∨ (0x20 ≤ a ∧ a < 0x1000) ∨ 0x1000 + 32 * n ≤ a) : resolve n a size = none := by
  by_cases hacc : size ≠ 4 ∨ a % 4 ≠ 0
  · exact resolve_unaligned hacc
  · rw [resolve, if_neg hacc, if_neg (by omega), if_neg (by omega)]

/-- A guarded offset reaches a target whose store BUSY drops (R82). -/
theorem store_of_busyGuarded {s : State} {a : Nat} (w : Word) (hb : s.busy = true) (ha : BusyGuarded s a) :
    ∃ g, resolve s.nlimb a 4 = some g ∧ s.store w g = s.dropWrite := by
  have hidle : ∀ f, s.whenIdle f = s.dropWrite := fun f => by rw [State.whenIdle, if_pos hb]
  rcases ha with rfl | rfl | rfl | rfl | ⟨hlo, hhi, halign⟩
  · exact ⟨_, resolve_offset _ .cmd, State.writeCmd_of_blocked (.inl hb)⟩
  · exact ⟨_, resolve_offset _ .bs, by rw [State.store, hidle]⟩
  · exact ⟨_, resolve_offset _ .mlen, by rw [State.store, hidle]⟩
  · exact ⟨_, resolve_offset _ .rounds, by rw [State.store, hidle]⟩
  · exact ⟨_, resolve_of_limb_range hlo hhi halign, by rw [State.store, hidle]⟩

/-! ## A host transaction as a step -/

section
variable {s : State} {rest : List Event} {a n : Nat} {w : Word} {g : Target}

/-- A host read's step (R71). -/
theorem step_hostRead (h : s.script = .hostRead a n :: rest) : step s = .next ((s.advance rest).hostRead a n) := by
  rw [step, h]
  rfl

/-- A host write's step (R71). -/
theorem step_hostWrite (h : s.script = .hostWrite a n w :: rest) :
    step s = .next ((s.advance rest).hostWrite a n w) := by
  rw [step, h]
  rfl

/-- A read that reaches nothing answers ERROR (R75, R80). -/
theorem step_read_outside (h : s.script = .hostRead a n :: rest) (hg : resolve s.nlimb a n = none) :
    step s = .next { s with script := rest, response := some .error } := by
  rw [step_hostRead h, State.hostRead, State.advance_nlimb, hg]
  rfl

/-- A read that reaches a target answers its word (R83). -/
theorem step_read (h : s.script = .hostRead a n :: rest) (hg : resolve s.nlimb a n = some g) :
    step s = .next { s with script := rest, response := some (.data (s.load g)) } := by
  rw [step_hostRead h, State.hostRead, State.advance_nlimb, hg, ← State.load_advance s rest]
  rfl

/-- A write that reaches nothing answers ERROR (R75, R80). -/
theorem step_write_outside (h : s.script = .hostWrite a n w :: rest) (hg : resolve s.nlimb a n = none) :
    step s = .next { s with script := rest, response := some .error } := by
  rw [step_hostWrite h, State.hostWrite, State.advance_nlimb, hg]
  rfl

/-- A write that reaches a target is the store to it, answered OKAY (R71, R82). -/
theorem step_write (h : s.script = .hostWrite a n w :: rest) (hg : resolve s.nlimb a n = some g) :
    step s = .next (((s.advance rest).store w g).respond .okay) := by
  rw [step_hostWrite h, State.hostWrite, State.advance_nlimb, hg]

/-- Idle, a limb write sets the one limb (R74). -/
theorem step_write_limb {r : Reg} {j : Nat} (hj : j < s.nlimb) (hb : s.busy = false)
    (h : s.script = .hostWrite (limbOffset s.nlimb r j) 4 w :: rest) :
    step s = .next (((s.advance rest).setReg r (setLimb (s.reg r) j w)).respond .okay) := by
  rw [step_write h (resolve_limbOffset r hj), State.store, State.whenIdle, if_neg (by simp [hb])]
  rfl

end

/-! ## A register as its limbs -/

/-- The first `n` limbs make up the value's low 32n bits (R76). -/
theorem sum_limbs_eq_mod (v n : Nat) :
    ((List.range n).map fun j => (limb v j).toNat * 2 ^ (32 * j)).sum = v % 2 ^ (32 * n) := by
  induction n with
  | zero => simp [Nat.mod_one]
  | succ n ih =>
    rw [List.range_succ, List.map_append, List.sum_append, ih, Nat.mul_succ, pow_add, Nat.mod_mul, ← limb_toNat]
    simp [mul_comm]

/-! ## An accepted command stays visible -/

/-- STATUS shows a command in flight or its outcome (R86). -/
def State.Visible (s : State) : Prop := s.busy = true ∨ s.done = true ∨ s.err = true

/-- A move that clears neither the command in flight nor its outcome: neither reset nor a STATUS write. -/
def Event.Harmless (e : Event) : Prop := e ≠ .reset ∧ ∀ w, e ≠ .hostWrite 0x04 4 w

section
variable {s s' : State} {e : Event} {rest : List Event}

/-- No store changes the moves to come. -/
theorem StoreTo.script {w : Word} {g : Target} (h : StoreTo s w g s') : s'.script = s.script := by
  cases h <;> rfl

/-- A step takes its move, and only that, off the list. -/
theorem StepTo.script (h : StepTo s s') : s'.script = s.script.tail := by
  cases h with
  | wait _ hm _ | illegal _ _ hm _ _ _ | complete _ _ _ hm _ _ _ _ | fault _ _ _ hm _ _ _ _ | ask _ _ _ _ hm _ _ _ _ =>
    rcases hm with hm | ⟨hm, rfl⟩ <;> rw [hm] <;> rfl
  | writeOkay _ _ _ _ _ hm _ hst => rw [hm]; exact hst.script
  | read _ _ _ _ hm | writeError _ _ _ _ hm _ | answer _ _ _ hm _ | ignore _ _ hm _ | reset _ hm => rw [hm]; rfl

/-- Every step answers a next state (R311). -/
theorem exists_step (s : State) : ∃ s', step s = .next s' := by
  rcases step_cases s with ⟨r, -, h⟩ | ⟨_, _, _, -, h⟩ | ⟨_, _, _, _, -, h⟩ | ⟨_, _, -, h⟩ | ⟨_, -, h⟩
  · rcases engineTurn_cases (s.advance r) with ⟨-, ht⟩ | ⟨-, -, ⟨_, -, ht⟩ | ⟨_, -, ht⟩⟩ <;> exact ⟨_, h.trans ht⟩
  all_goals exact ⟨_, h⟩

/-- What the engine does leaves DONE or ERR, an acceptance leaves BUSY, and no other harmless move writes the three. -/
theorem FlagStep.visible (h : FlagStep s s') (hs : s.script = e :: rest) (he : e.Harmless) (hv : s.Visible) :
    s'.Visible := by
  cases h with
  | same _ hf => rwa [State.Visible, hf.busy, hf.done, hf.err]
  | complete _ _ _ _ _ _ _ _ => exact .inr (.inl rfl)
  | fault _ _ _ _ _ => exact .inr (.inr rfl)
  | accept _ _ _ _ _ => exact .inl rfl
  | ctrl _ _ _ | drop _ _ _ _ _ => exact hv
  | status w _ hm =>
    cases hs.symm.trans hm
    exact absurd rfl (he.2 w)
  | reset _ hm =>
    cases hs.symm.trans hm
    exact absurd rfl he.1

/-- A STATUS read on a visible state sees it. -/
theorem State.Visible.statusWord (h : s.Visible) :
    s.statusWord.getLsbD 0 = true ∨ s.statusWord.getLsbD 1 = true ∨ s.statusWord.getLsbD 2 = true := by
  obtain ⟨hbusy, hdone, herr, -⟩ := statusWord_bits s
  rwa [hbusy, hdone, herr]

end

/-- After any harmless moves a STATUS read still sees BUSY, DONE or ERR (R86). -/
theorem State.Visible.read_after {rest : List Event} : ∀ {moves : List Event} {s : State}, s.Visible →
    (∀ e ∈ moves, e.Harmless) → s.script = moves ++ .hostRead CtlReg.status.offset 4 :: rest →
      ∃ s' w, runFor (moves.length + 1) s = .next s' ∧ s'.response = some (.data w) ∧
        (w.getLsbD 0 = true ∨ w.getLsbD 1 = true ∨ w.getLsbD 2 = true)
  | [], s, hv, _, hs => ⟨_, s.statusWord, runFor_succ (step_read_ctl .status hs), rfl, hv.statusWord⟩
  | e :: moves, s, hv, hm, hs => by
    obtain ⟨he, hmoves⟩ := List.forall_mem_cons.1 hm
    obtain ⟨s₁, h₁⟩ := exists_step s
    have hscript : s₁.script = moves ++ .hostRead CtlReg.status.offset 4 :: rest := by
      rw [(stepTo_of_step h₁).script, hs]
      rfl
    rw [List.length_cons, runFor_succ h₁]
    exact ((flagStep_of_step h₁).visible hs he hv).read_after hmoves hscript

/-! ## The obligations about the window -/

/-- Settles O24: BUSY, DONE or ERR stays set through every harmless move. -/
theorem acceptedCommandIsVisible : Obligations.AcceptedCommandIsVisible := by
  unfold Obligations.AcceptedCommandIsVisible
  intro s moves rest hb hm hs
  refine State.Visible.read_after (.inl hb) (fun e he => ?_) hs
  rcases hm e he with rfl | ⟨v, rfl⟩ | ⟨a, n, rfl⟩ | ⟨a, n, w, rfl, ha⟩
  · exact ⟨nofun, nofun⟩
  · exact ⟨nofun, nofun⟩
  · exact ⟨nofun, nofun⟩
  · exact ⟨nofun, fun _ hw => by cases hw; exact ha rfl⟩

/-- Settles O26: the map inverts the control registers' offsets and the limbs' offsets. -/
theorem windowMapIsExact : Obligations.WindowMapIsExact := by
  unfold Obligations.WindowMapIsExact
  intro n a g _
  cases g with
  | ctl c => simp [resolve_ctl_iff]
  | limb r j => simp [resolve_limb_iff, limbOffset]

/-- Settles O27: such an access reaches nothing, and then only the answer is written. -/
theorem errorAccessChangesNothing : Obligations.ErrorAccessChangesNothing := by
  unfold Obligations.ErrorAccessChangesNothing
  rintro s a n w rest h (hs | hs)
  · exact step_read_outside hs (resolve_outside h)
  · exact step_write_outside hs (resolve_outside h)

/-- Settles O28: a read writes only the answer, an ERROR or a word. -/
theorem readHasNoSideEffect : Obligations.ReadHasNoSideEffect := by
  unfold Obligations.ReadHasNoSideEffect
  intro s a n rest hs
  cases hg : resolve s.nlimb a n with
  | none => exact ⟨.error, nofun, step_read_outside hs hg⟩
  | some g => exact ⟨.data (s.load g), nofun, step_read hs hg⟩

/-- Settles O32: a guarded offset's store is a drop. -/
theorem busyDropsWrites : Obligations.BusyDropsWrites := by
  unfold Obligations.BusyDropsWrites
  intro s a w rest hb ha hs
  obtain ⟨g, hg, hdrop⟩ := store_of_busyGuarded (s := s.advance rest) w hb ha
  rw [step_write hs hg, hdrop]
  rfl

/-- Settles O34: the limb write is `setLimb` of the one register, whose limbs `limb_setLimb_same` and
`limb_setLimb_other` give. -/
theorem limbWriteReplacesOneLimb : Obligations.LimbWriteReplacesOneLimb := by
  unfold Obligations.LimbWriteReplacesOneLimb
  refine ⟨fun s r j w rest _ hj hb hs => ⟨_, step_write_limb hj hb hs, ?_⟩, fun s r j rest _ hj hs =>
    ⟨_, step_read hs (resolve_limbOffset r hj), limb_toNat _ _⟩⟩
  have hreg : (((s.advance rest).setReg r (setLimb (s.reg r) j w)).respond .okay).reg r = setLimb (s.reg r) j w :=
    State.reg_setReg_same _ r _
  simp only [hreg, ← limb_toNat]
  refine ⟨rfl, ?_, fun k hk => ?_, fun q hq => State.reg_setReg_other _ _ hq, rfl⟩
  · rw [limb_setLimb_same]
  · rw [limb_setLimb_other _ w hk]

/-- Settles O35: a register is below 2^W, so its low 32 * NLIMB bits are all of it. -/
theorem registerIsSumOfItsLimbs : Obligations.RegisterIsSumOfItsLimbs := by
  unfold Obligations.RegisterIsSumOfItsLimbs
  intro s r hlegal
  rw [sum_limbs_eq_mod]
  exact (Nat.mod_eq_of_lt (hlegal.fits.regs r)).symm

end Sys2Proof.Machine
end

section
/-! SUPPORT. The opcode map read as the field checks (spec/30_encoding.md R103, R105, R107): a row is hit exactly by the
well-formed words of its opcode, and what it builds from one has the word's own fields. So the words that decode are the
well-formed ones, and decoding and encoding are inverse; and the statements about the encoding. -/

namespace Sys2Proof

/-! ## A row's mask and match, said with the field checks -/

/-- The opcode a row asks for (R105). -/
def OpRow.opcode (r : OpRow) : BitVec 8 := (fieldsOf r.matchBits).opcode

/-- The mask of a register field: its three bits, or none when the command uses it (R105). -/
def unusedMask (used : Bool) : BitVec 3 := if used then 0 else 7

/-- The mask that the "fields used" column gives an opcode (R105). -/
def maskFields (op : BitVec 8) : Fields where
  zero := 0xFFF
  rs3 := unusedMask (usesRs3 op)
  rs2 := unusedMask (usesRs2 op)
  rs1 := unusedMask (usesRs1 op)
  rd := unusedMask (usesRd op)
  opcode := 0xFF

/-- Under its mask a register field is 0 when it is used or 0. -/
theorem and_unusedMask_eq_zero (b : BitVec 3) (used : Bool) :
    b &&& unusedMask used = 0 ↔ used = true ∨ b = 0 := by
  revert b used
  decide

/-- Every row has the mask of its opcode and asks for that opcode and nothing else (R105). -/
theorem OpRow.mask_match : ∀ r ∈ opTable,
    fieldsOf r.mask = maskFields r.opcode ∧ fieldsOf r.matchBits = ⟨0, 0, 0, 0, 0, r.opcode⟩ := by
  decide

/-- The rows' opcodes are the known ones, one row for each (R105). -/
theorem opTable_opcodes : opTable.map OpRow.opcode = [1, 2, 3, 4, 5, 6, 7, 8, 9] := by decide

/-- No two rows share an opcode (R105). -/
theorem OpRow.eq_of_opcode_eq {r r' : OpRow} (hr : r ∈ opTable) (hr' : r' ∈ opTable) (h : r.opcode = r'.opcode) :
    r = r' :=
  List.inj_on_of_nodup_map (by rw [opTable_opcodes]; decide) hr hr' h

/-- An opcode is known exactly when some row asks for it (R105, R107). -/
theorem opcodeKnown_iff {f : Fields} : f.opcodeKnown = true ↔ ∃ r ∈ opTable, r.opcode = f.opcode := by
  have hknown : ∀ op : BitVec 8, (1 ≤ op.toNat ∧ op.toNat ≤ 9) ↔ op ∈ opTable.map OpRow.opcode := by
    rw [opTable_opcodes]
    decide
  rw [← List.mem_map, ← hknown, Fields.opcodeKnown, Bool.and_eq_true, decide_eq_true_eq, decide_eq_true_eq]

/-- The checks as equations (R103, R107). -/
theorem wellFormed_iff {f : Fields} :
    f.wellFormed = true ↔ f.opcodeKnown = true ∧ f.zero = 0 ∧ (usesRs3 f.opcode = true ∨ f.rs3 = 0) ∧
      (usesRs2 f.opcode = true ∨ f.rs2 = 0) ∧ (usesRs1 f.opcode = true ∨ f.rs1 = 0) ∧
      (usesRd f.opcode = true ∨ f.rd = 0) := by
  simp only [Fields.wellFormed, Fields.zeroClear, Fields.unusedClear, Bool.and_eq_true, Bool.or_eq_true, beq_iff_eq]
  constructor
  · rintro ⟨⟨hop, hzero⟩, ⟨⟨hrd, hrs1⟩, hrs2⟩, hrs3⟩
    exact ⟨hop, hzero, hrs3, hrs2, hrs1, hrd⟩
  · rintro ⟨hop, hzero, hrs3, hrs2, hrs1, hrd⟩
    exact ⟨⟨hop, hzero⟩, ⟨⟨hrd, hrs1⟩, hrs2⟩, hrs3⟩

/-- A row is hit exactly by the well-formed words of its opcode (R103, R105). -/
theorem OpRow.hits_iff {r : OpRow} (hr : r ∈ opTable) {w : Word} :
    r.hits w = true ↔ (fieldsOf w).wellFormed = true ∧ r.opcode = (fieldsOf w).opcode := by
  obtain ⟨hmask, hmatch⟩ := r.mask_match hr
  have hzero : (fieldsOf w).zero &&& 0xFFF = (fieldsOf w).zero := BitVec.and_allOnes
  have hop : (fieldsOf w).opcode &&& 0xFF = (fieldsOf w).opcode := BitVec.and_allOnes
  rw [OpRow.hits_eq, hmask, hmatch, wellFormed_iff, opcodeKnown_iff]
  simp only [maskFields, Bool.and_eq_true, beq_iff_eq, and_unusedMask_eq_zero, hzero, hop]
  constructor
  · rintro ⟨hz, hrs3, hrs2, hrs1, hrd, heq⟩
    rw [heq]
    exact ⟨⟨⟨r, hr, rfl⟩, hz, hrs3, hrs2, hrs1, hrd⟩, rfl⟩
  · rintro ⟨⟨-, hz, hrs3, hrs2, hrs1, hrd⟩, heq⟩
    rw [heq]
    exact ⟨hz, hrs3, hrs2, hrs1, hrd, rfl⟩

/-- No word hits two rows (R105). -/
theorem OpRow.eq_of_hits {r r' : OpRow} {w : Word} (hr : r ∈ opTable) (hr' : r' ∈ opTable) (hw : r.hits w = true)
    (hw' : r'.hits w = true) : r = r' := by
  obtain ⟨-, hop⟩ := (OpRow.hits_iff hr).1 hw
  obtain ⟨-, hop'⟩ := (OpRow.hits_iff hr').1 hw'
  exact OpRow.eq_of_opcode_eq hr hr' (hop.trans hop'.symm)

/-! ## What a row builds -/

/-- The fields with this opcode, those it does not use 0 (R101, R103). -/
def Fields.usedBy (f : Fields) (op : BitVec 8) : Fields where
  zero := 0
  rs3 := if usesRs3 op then f.rs3 else 0
  rs2 := if usesRs2 op then f.rs2 else 0
  rs1 := if usesRs1 op then f.rs1 else 0
  rd := if usesRd op then f.rd else 0
  opcode := op

/-- Well-formed fields hold nothing that their opcode does not use (R103). -/
theorem Fields.usedBy_opcode {f : Fields} (h : f.wellFormed = true) : f.usedBy f.opcode = f := by
  obtain ⟨-, hzero, hrs3, hrs2, hrs1, hrd⟩ := wellFormed_iff.1 h
  have hite : ∀ {used : Bool} {b : BitVec 3}, used = true ∨ b = 0 → (if used then b else 0) = b := by
    rintro used b (rfl | rfl)
    · rfl
    · exact ite_self 0
  ext1
  · exact hzero.symm
  · exact hite hrs3
  · exact hite hrs2
  · exact hite hrs1
  · exact hite hrd
  · rfl

/-- A row's command has the fields it was built from that the row's opcode uses (R106). -/
theorem OpRow.fields_build {r : OpRow} (hr : r ∈ opTable) (f : Fields) : (r.build f).fields = f.usedBy r.opcode := by
  simp only [opTable, List.mem_cons, List.not_mem_nil, or_false] at hr
  rcases hr with rfl | rfl | rfl | rfl | rfl | rfl | rfl | rfl | rfl <;>
    simp only [Instr.fields, Reg.field_ofField] <;> rfl

/-- Every command has a row, which builds it from its own fields (R105, R106). -/
theorem Instr.exists_row (i : Instr) : ∃ r ∈ opTable, r.opcode = i.fields.opcode ∧ r.build i.fields = i := by
  cases i <;> simp [opTable, OpRow.opcode, Instr.fields, fieldsOf]

/-! ## Decoding and encoding -/

/-- The encoder's word has the fields of the command (R101). -/
@[simp] theorem fieldsOf_encode (i : Instr) : fieldsOf (encode i) = i.fields := by
  rw [encode_eq_assemble, fieldsOf_assemble]

/-- A word decodes to what the row it hits builds from its fields: it hits no other row (R105, R106). -/
theorem decode_eq_ok {w : Word} {i : Instr} :
    decode w = .ok i ↔ ∃ r ∈ opTable, r.hits w = true ∧ r.build (fieldsOf w) = i := by
  rw [decode]
  constructor
  · intro h
    split at h
    · rename_i r hfind
      cases h
      exact ⟨r, List.mem_of_find?_eq_some hfind, List.find?_some (p := (OpRow.hits · w)) hfind, rfl⟩
    · cases h
  · rintro ⟨r, hr, hw, rfl⟩
    obtain ⟨r', hfind⟩ := Option.isSome_iff_exists.1 (List.find?_isSome (p := (OpRow.hits · w)).2 ⟨r, hr, hw⟩)
    have hr' := List.mem_of_find?_eq_some hfind
    have hw' := List.find?_some (p := (OpRow.hits · w)) hfind
    rw [hfind, OpRow.eq_of_hits hr hr' hw hw']

/-- The encoder's word of a command is the one word that decodes to it (R101, R106). -/
theorem decode_eq_ok_iff_encode_eq {w : Word} {i : Instr} : decode w = .ok i ↔ encode i = w := by
  rw [decode_eq_ok]
  constructor
  · rintro ⟨r, hr, hw, rfl⟩
    obtain ⟨hwf, hop⟩ := (OpRow.hits_iff hr).1 hw
    rw [encode_eq_assemble, OpRow.fields_build hr, hop, Fields.usedBy_opcode hwf, assemble_fieldsOf]
  · rintro rfl
    obtain ⟨r, hr, hop, hbuild⟩ := i.exists_row
    refine ⟨r, hr, (OpRow.hits_iff hr).2 ?_, ?_⟩ <;> rw [fieldsOf_encode]
    · exact ⟨wellFormed_all i, hop⟩
    · exact hbuild

/-- The words that decode are those whose fields pass the checks (R103, R105, R107). -/
theorem exists_decode_eq_ok_iff {w : Word} : (∃ i, decode w = .ok i) ↔ (fieldsOf w).wellFormed = true := by
  constructor
  · rintro ⟨i, hi⟩
    rw [← decode_eq_ok_iff_encode_eq.1 hi, fieldsOf_encode]
    exact wellFormed_all i
  · intro hwf
    obtain ⟨hknown, -⟩ := wellFormed_iff.1 hwf
    obtain ⟨r, hr, hop⟩ := opcodeKnown_iff.1 hknown
    exact ⟨_, decode_eq_ok.2 ⟨r, hr, (OpRow.hits_iff hr).2 ⟨hwf, hop⟩, rfl⟩⟩

/-! ## The obligations about the encoding -/

/-- Settles O1: a command's row is hit by its word and builds it again. -/
theorem decodeOfEncode : Obligations.DecodeOfEncode := by
  unfold Obligations.DecodeOfEncode
  exact fun i _ => decode_eq_ok_iff_encode_eq.2 rfl

/-- Settles O2: a row builds a command with the word's own fields, which are all of the word. -/
theorem encodeOfDecode : Obligations.EncodeOfDecode := by
  unfold Obligations.EncodeOfDecode
  exact fun w i => decode_eq_ok_iff_encode_eq.1

/-- Settles O3: well-formed fields have a known opcode, so a row, and that row is hit. -/
theorem wordDecodesIffFieldsWellFormed : Obligations.WordDecodesIffFieldsWellFormed := by
  unfold Obligations.WordDecodesIffFieldsWellFormed
  exact fun w => exists_decode_eq_ok_iff

/-- Settles O4: the legal words are the encoder's words of their commands; the others are looked up in the map. -/
theorem exampleWordsDecode : Obligations.ExampleWordsDecode := by
  unfold Obligations.ExampleWordsDecode
  simp only [decode_eq_ok_iff_encode_eq]
  decide

end Sys2Proof
end

section
/-! SUPPORT. The engine's turn on an illegal word (spec/60_exceptions.md R261), LDX as NLIMB limb writes in a row, WAIT as
its polls (spec/30_encoding.md R120), and the statements about them. -/

namespace Sys2Proof.Machine

/-! ## An illegal word -/

/-- A word that is no command's is retired as ILLEGAL by the engine's turn (R107, R261). -/
theorem step_illegal {s : State} {rest : List Event} (hm : EngineMoves s rest) (hb : s.busy = true)
    (hp : s.pending = none) (hw : (fieldsOf s.cmd).wellFormed = false) :
    step s = .next ((s.advance rest).takeFault .illegal) := by
  have hno : ¬∃ i, decode (s.advance rest).cmd = .ok i := by
    rw [exists_decode_eq_ok_iff, State.advance_cmd, hw]
    decide
  rw [step_engine hm]
  rcases engineTurn_cases (s.advance rest) with ⟨hidle, -⟩ | ⟨-, -, ⟨_, -, h⟩ | ⟨i, hi, -⟩⟩
  · simp [hb, hp] at hidle
  · exact h
  · exact absurd ⟨i, hi⟩ hno

/-- Settles O6: the word hits no row, so the engine's turn takes the fault ILLEGAL and nothing else. -/
theorem illegalWordFaultsWithCode1 : Obligations.IllegalWordFaultsWithCode1 := by
  unfold Obligations.IllegalWordFaultsWithCode1
  intro s rest hm hb hp hw
  exact ⟨_, step_illegal hm hb hp hw, takeFault_faultedFrom (s.advance rest) .illegal⟩

/-! ## A register written limb by limb -/

/-- The value `u` after writes of these limbs of `v`, first to last. -/
def setLimbs (v u : Nat) (js : List Nat) : Nat := js.foldl (fun x j => setLimb x j (limb v j)) u

@[simp] theorem setLimbs_nil (v u : Nat) : setLimbs v u [] = u := rfl

@[simp] theorem setLimbs_cons (v u j : Nat) (js : List Nat) :
    setLimbs v u (j :: js) = setLimbs v (setLimb u j (limb v j)) js := rfl

/-- Writes of limbs below `n` keep the value below 2^(32n). -/
theorem setLimbs_lt {v u n : Nat} {js : List Nat} (hu : u < 2 ^ (32 * n)) (hjs : ∀ j ∈ js, j < n) :
    setLimbs v u js < 2 ^ (32 * n) := by
  induction js generalizing u with
  | nil => exact hu
  | cons j js ih =>
    rw [List.forall_mem_cons] at hjs
    exact ih (setLimb_lt _ hu hjs.1) hjs.2

/-- A limb that is written, or that agreed before, is `v`'s. -/
theorem limb_setLimbs {v u k : Nat} {js : List Nat} (h : k ∈ js ∨ limb u k = limb v k) :
    limb (setLimbs v u js) k = limb v k := by
  induction js generalizing u with
  | nil => simpa using h
  | cons j js ih =>
    refine ih ?_
    by_cases hk : k = j
    · subst hk
      exact .inr (limb_setLimb_same _ _ _)
    · rw [limb_setLimb_other u _ hk]
      simpa [hk] using h

/-- Values below 2^(32n) with the same first `n` limbs are equal (R76). -/
theorem eq_of_limbs_eq {u v n : Nat} (hu : u < 2 ^ (32 * n)) (hv : v < 2 ^ (32 * n))
    (h : ∀ j < n, limb u j = limb v j) : u = v := by
  rw [← Nat.mod_eq_of_lt hu, ← Nat.mod_eq_of_lt hv, ← sum_limbs_eq_mod, ← sum_limbs_eq_mod]
  exact congrArg List.sum (List.map_congr_left fun j hj => by rw [h j (List.mem_range.1 hj)])

/-- All `n` limbs of `v` written make the value `v` (R120). -/
theorem setLimbs_range {u v n : Nat} (hu : u < 2 ^ (32 * n)) (hv : v < 2 ^ (32 * n)) :
    setLimbs v u (List.range n) = v :=
  eq_of_limbs_eq (setLimbs_lt hu fun _ => List.mem_range.1) hv fun _ hj => limb_setLimbs (.inl (List.mem_range.2 hj))

@[simp] theorem OperandRegs.set_set (x : OperandRegs) (r : Reg) (u v : Nat) : (x.set r u).set r v = x.set r v := by
  cases r <;> rfl

/-- Idle, limb writes of `v` to one register, one after another, are `setLimbs` of it (R74, R120). -/
theorem runFor_limbWrites {r : Reg} {v : Nat} {rest : List Event} : ∀ {js : List Nat} {s : State}, js ≠ [] →
    s.busy = false → (∀ j ∈ js, j < s.nlimb) →
      s.script = js.map (fun j => lineWrl s.nlimb r j (limb v j)) ++ rest →
        runFor js.length s = .next (((s.advance rest).setReg r (setLimbs v (s.reg r) js)).respond .okay)
  | [], _, hne, _, _, _ => absurd rfl hne
  | [j], s, _, hb, hj, hs => by
    rw [List.length_singleton, runFor_succ (step_write_limb (hj j (by simp)) hb hs)]
    rfl
  | j :: k :: js, s, _, hb, hj, hs => by
    rw [List.length_cons, runFor_succ (step_write_limb (hj j (by simp)) hb hs)]
    have hjs : ∀ a ∈ k :: js, a < s.nlimb := fun a ha => hj a (List.mem_cons_of_mem j ha)
    refine Eq.trans (runFor_limbWrites (rest := rest) (List.cons_ne_nil k js) hb hjs rfl) ?_
    simp [State.setReg, State.reg, State.advance, State.respond]

/-- Settles O36: LDX writes every limb of the value, and the limbs below NLIMB are all of the register. -/
theorem ldxLoadsTheValue : Obligations.LdxLoadsTheValue := by
  unfold Obligations.LdxLoadsTheValue
  intro s r v rest hn hb hu hv hs
  obtain ⟨hmin, -⟩ := nlimbOk_iff.1 hn
  have hne : List.range s.nlimb ≠ [] := by
    rw [Ne, List.range_eq_nil]
    omega
  have hrun := runFor_limbWrites hne hb (fun _ => List.mem_range.1) hs
  rw [List.length_range, setLimbs_range hu hv] at hrun
  exact ⟨_, hrun, State.reg_setReg_same _ r v, fun q hq => State.reg_setReg_other _ v hq, rfl⟩

/-! ## The polls of a WAIT -/

/-- The state after the first `k + 1` polls of a WAIT, each the others' moves and a read of STATUS (R120). -/
def afterPoll (polls : Polls) (s : State) (k : Nat) : State :=
  play ((polls.take (k + 1)).flatMap fun others => others ++ [lineRd .status]) s

theorem afterPoll_zero (others : List Event) (more : Polls) (s : State) :
    afterPoll (others :: more) s 0 = play (others ++ [lineRd .status]) s := by
  simp [afterPoll]

theorem afterPoll_succ (others : List Event) (more : Polls) (s : State) (k : Nat) :
    afterPoll (others :: more) s (k + 1) = afterPoll more (play (others ++ [lineRd .status]) s) k := by
  rw [afterPoll, List.take_succ_cons, List.flatMap_cons, play_append]
  rfl

/-- A poll leaves BUSY and the word of STATUS as it read them (R83). -/
theorem play_poll_statusWord (others : List Event) (s : State) :
    (play (others ++ [lineRd .status]) s).statusWord = (play others s).statusWord := by
  rw [play_append, play_lineRd]
  rfl

theorem play_poll_busy (others : List Event) (s : State) :
    (play (others ++ [lineRd .status]) s).busy = (play others s).busy := by
  rw [play_append, play_lineRd]

/-- A WAIT that ends does so at its first poll that finds BUSY 0, with the word of STATUS then (R120). -/
theorem waitFor_eq_some {polls : Polls} {s s' : State} {w : Word} (h : waitFor polls s = some (s', w)) :
    ∃ k < polls.length, s' = afterPoll polls s k ∧ (∀ j < k, (afterPoll polls s j).busy = true) ∧ s'.busy = false ∧
      w = s'.statusWord := by
  induction polls generalizing s with
  | nil => cases h
  | cons others more ih =>
    rw [waitFor_cons, ← play_poll_busy, ← play_poll_statusWord] at h
    split at h
    · rename_i hbusy
      obtain ⟨k, hk, hs', hbefore, hend⟩ := ih h
      refine ⟨k + 1, Nat.succ_lt_succ hk, by rw [hs', afterPoll_succ], fun j hj => ?_, hend⟩
      cases j with
      | zero => rwa [afterPoll_zero]
      | succ j =>
        rw [afterPoll_succ]
        exact hbefore j (Nat.lt_of_succ_lt_succ hj)
    · rename_i hidle
      cases h
      exact ⟨0, Nat.succ_pos _, (afterPoll_zero _ _ _).symm, fun _ hj => absurd hj (Nat.not_lt_zero _),
        Bool.not_eq_true _ ▸ hidle, rfl⟩

/-- A WAIT has not ended exactly when every poll so far found BUSY (R319). -/
theorem waitFor_eq_none_iff {polls : Polls} {s : State} :
    waitFor polls s = none ↔ ∀ k < polls.length, (afterPoll polls s k).busy = true := by
  induction polls generalizing s with
  | nil => simp [waitFor]
  | cons others more ih =>
    rw [waitFor_cons, ← play_poll_busy, List.length_cons, Nat.forall_lt_succ_left, afterPoll_zero]
    simp only [afterPoll_succ, ← ih]
    split
    · rename_i hbusy
      simp [hbusy]
    · rename_i hidle
      simp [hidle]

/-- Settles O55: the polls of a WAIT one by one, the word read being STATUS as a word. -/
theorem waitReturnsTheFirstIdleStatus : Obligations.WaitReturnsTheFirstIdleStatus := by
  unfold Obligations.WaitReturnsTheFirstIdleStatus
  refine fun polls s => ⟨fun s' w h => ?_, waitFor_eq_none_iff⟩
  obtain ⟨k, hk, hs', hbefore, hidle, rfl⟩ := waitFor_eq_some h
  obtain ⟨hbusy, hdone, herr, ht, hovr⟩ := statusWord_bits s'
  exact ⟨k, hk, hs', hbefore, hidle, hbusy.trans hidle, hdone, herr, ht, hovr⟩

end Sys2Proof.Machine
end

section
/-! SUPPORT. The two outcomes of a command that writes one operand register, each as a state (spec/10_state.md R57,
spec/60_exceptions.md R272), and the statements about MODEXP (spec/40_modexp.md). -/

namespace Sys2Proof.Machine

/-! ## The outcomes of a command that writes one register -/

/-- A command whose evaluation completes with the write `x[rd] <- v`, and perhaps one of T, retires with that done and
every other register kept. -/
theorem exec_of_complete_dest {i : Instr} {s : State} {rd : Reg} {v : Nat} {t : Option Bool}
    (h : evaluate i s = .complete { dest := some (rd, v), t := t }) :
    ∃ s', exec i s = .next s' ∧ s'.reg rd = v ∧ (∀ r, r ≠ rd → s'.reg r = s.reg r) ∧ s'.bs = s.bs ∧
      s'.t = t.getD s.t ∧ CompletedFrom s s' := by
  have hexec := exec_eq i s
  rw [h] at hexec
  exact ⟨_, hexec, OperandRegs.get_set_same s.x rd v, fun r hr => OperandRegs.get_set_other s.x v hr, rfl, rfl,
    complete_completedFrom s _⟩

/-- A command whose evaluation faults retires with that fault's code. -/
theorem exec_of_fault {i : Instr} {s : State} {c : FaultCode} (h : evaluate i s = .fault c) :
    ∃ s', exec i s = .next s' ∧ FaultedFrom s s' c.code := by
  have hexec := exec_eq i s
  rw [h] at hexec
  exact ⟨_, hexec, takeFault_faultedFrom s c⟩

/-! ## MODEXP -/

section
variable {s : State} {rs3 : Reg} (rd rs1 rs2 : Reg)

/-- With a modulus MODEXP completes with the power (R132). -/
theorem evaluate_modexp_of_ne_zero (hn : s.reg rs3 ≠ 0) :
    evaluate (.modexp rd rs1 rs2 rs3) s =
      .complete { dest := some (rd, s.reg rs1 ^ s.reg rs2 % s.reg rs3) } := by
  rw [evaluate, evalModexp, if_neg hn, modexp_eq]

/-- A zero modulus raises MODULUS (R133). -/
theorem evaluate_modexp_of_eq_zero (hn : s.reg rs3 = 0) : evaluate (.modexp rd rs1 rs2 rs3) s = .fault .modulus := by
  rw [evaluate, evalModexp, if_pos hn]

end

/-- Settles O38: the square-and-multiply loop gives the power (`modexp_eq`), whose operands are read before `rd` is
written. -/
theorem modexpWritesPowerModN : Obligations.ModexpWritesPowerModN := by
  unfold Obligations.ModexpWritesPowerModN
  intro s rd rs1 rs2 rs3
  exact ⟨fun hn => exec_of_complete_dest (evaluate_modexp_of_ne_zero rd rs1 rs2 hn),
    fun hn => exec_of_fault (evaluate_modexp_of_eq_zero rd rs1 rs2 hn)⟩

/-! ## The RSA theorem (R137) -/

/-- Two MODEXPs by one modulus are one by the product of the exponents (R135). -/
theorem modexp_modexp (b e d n : Nat) : modexp (modexp b e n) d n = b ^ (e * d) % n := by
  rw [modexp_eq, modexp_eq, ← Nat.pow_mod, pow_mul]

/-- Fermat: a power by an exponent that is 1 modulo p - 1 is the base, modulo a prime p; also where p divides the base. -/
theorem pow_modEq_self_of_prime {p k : Nat} (hp : p.Prime) (hk : 0 < k) (h : p - 1 ∣ k - 1) (m : Nat) :
    m ^ k ≡ m [MOD p] := by
  have hfermat := Int.ModEq.pow_eq_pow hp h hk Nat.one_pos (m : ℤ)
  rw [pow_one] at hfermat
  exact_mod_cast hfermat

/-- The same modulo a product of two distinct primes, by the Chinese remainder theorem. -/
theorem pow_modEq_self_of_prime_mul_prime {p q k : Nat} (hp : p.Prime) (hq : q.Prime) (hpq : p ≠ q) (hk : 0 < k)
    (h : (p - 1) * (q - 1) ∣ k - 1) (m : Nat) : m ^ k ≡ m [MOD p * q] := by
  rw [← Nat.modEq_and_modEq_iff_modEq_mul ((Nat.coprime_primes hp hq).2 hpq)]
  exact ⟨pow_modEq_self_of_prime hp hk (dvd_of_mul_right_dvd h) m,
    pow_modEq_self_of_prime hq hk (dvd_of_mul_left_dvd h) m⟩

/-- Settles O53: the two MODEXPs raise `m` to `e * d`, which is 1 modulo (p - 1)(q - 1), and `m` is below `n`. -/
theorem rsaDecryptionInvertsEncryption : Obligations.RsaDecryptionInvertsEncryption := by
  unfold Obligations.RsaDecryptionInvertsEncryption
  intro p q e d m hp hq hpq hed hm
  have hpos : 0 < e * d := Nat.pos_of_ne_zero fun h0 => by simp [h0] at hed
  have hdvd : (p - 1) * (q - 1) ∣ e * d - e * d % ((p - 1) * (q - 1)) := Nat.dvd_sub_mod (e * d)
  rw [hed] at hdvd
  rw [modexp_modexp, pow_modEq_self_of_prime_mul_prime hp hq hpq hpos hdvd m, Nat.mod_eq_of_lt hm]

end Sys2Proof.Machine
end

section
/-! SUPPORT. The Miller-Rabin round as mathematics (spec/41_miller_rabin.md R151, R152): the decomposition is unique, a round
passes by its powers, a prime passes every round (R158 e); the outcomes of MRT by the answers in order (R154, R164); and the
statements about MRW and MRT. -/

namespace Sys2Proof.Machine

/-! ## One round -/

/-- The decomposition of R151 is unique. -/
theorem decomp_eq {n r m : Nat} (hn : 2 ≤ n) (h : n - 1 = 2 ^ r * m) (hm : m % 2 = 1) : decomp n = (r, m) := by
  obtain ⟨hdecomp, hodd⟩ := decomp_spec hn
  have hpos : n - 1 ≠ 0 := by omega
  calc decomp n
      = Nat.maxPowDvdDiv 2 (n - 1) := (Nat.maxPowDvdDiv_of_pow_mul_eq hpos hdecomp.symm (by omega)).symm
    _ = (r, m) := Nat.maxPowDvdDiv_of_pow_mul_eq hpos h.symm (by omega)

/-- A round passes exactly when a^m is 1, or one of a^m and its r - 1 successive squares is n - 1 (R152). -/
theorem mrRound_pass_iff {n a r m : Nat} (hn : 2 ≤ n) (hodd : n % 2 = 1) (h : n - 1 = 2 ^ r * m) (hm : m % 2 = 1) :
    mrRound n a = .pass ↔ a ^ m % n = 1 ∨ ∃ j < r, a ^ (2 ^ j * m) % n = n - 1 := by
  obtain _ | k := r
  · omega
  have hpow : ∀ j, a ^ (2 ^ j * m) = (a ^ m) ^ 2 ^ j := fun j => by rw [mul_comm, pow_mul]
  simp only [mrRound, decomp_eq hn h hm, modexp_eq, hpow, Nat.exists_lt_succ_left, Nat.add_sub_cancel, pow_zero, pow_one]
  rw [← squareLoop_pass_iff, ← or_assoc]
  split
  · rename_i hx
    exact iff_of_true rfl (.inl hx)
  · rename_i hx
    exact (or_iff_right hx).symm

/-! ## A prime passes every round -/

/-- Without zero divisors 1 has no square roots but 1 and -1, so a 2^r-th root of 1 is 1 or reaches -1 by squaring. -/
theorem eq_one_or_exists_pow_two_pow_eq_neg_one {R : Type*} [Ring R] [NoZeroDivisors R] (x : R) :
    ∀ r : Nat, x ^ 2 ^ r = 1 → x = 1 ∨ ∃ j < r, x ^ 2 ^ j = -1
  | 0, h => .inl (by simpa using h)
  | r + 1, h => by
    rw [pow_succ, pow_mul, sq_eq_one_iff] at h
    obtain hone | hneg := h
    · obtain hx | ⟨j, hj, hx⟩ := eq_one_or_exists_pow_two_pow_eq_neg_one x r hone
      · exact .inl hx
      · exact .inr ⟨j, Nat.lt_succ_of_lt hj, hx⟩
    · exact .inr ⟨r, Nat.lt_succ_self r, hneg⟩

/-- A remainder of 1, in the integers modulo n. -/
theorem mod_eq_one_iff_cast {n : Nat} (hn : 2 ≤ n) (v : Nat) : v % n = 1 ↔ (v : ZMod n) = 1 := by
  rw [← Nat.cast_one (R := ZMod n), ZMod.natCast_eq_natCast_iff', Nat.mod_eq_of_lt hn]

/-- A remainder of n - 1, in the integers modulo n. -/
theorem mod_eq_pred_iff_cast {n : Nat} (hn : 2 ≤ n) (v : Nat) : v % n = n - 1 ↔ (v : ZMod n) = -1 := by
  have hneg : ((n - 1 : Nat) : ZMod n) = -1 := by rw [Nat.cast_pred (by omega), ZMod.natCast_self, zero_sub]
  rw [← hneg, ZMod.natCast_eq_natCast_iff', Nat.mod_eq_of_lt (by omega : n - 1 < n)]

/-- A prime never gives COMPOSITE (R158 e): a^(n-1) is 1 by Fermat, and its square roots modulo n are 1 and -1. -/
theorem mrRound_pass_of_prime {p a : Nat} (hp : p.Prime) (hodd : p % 2 = 1) (ha : 0 < a) (hlt : a < p) :
    mrRound p a = .pass := by
  have : Fact p.Prime := ⟨hp⟩
  obtain ⟨hdecomp, hm⟩ := decomp_spec hp.two_le
  have hne : (a : ZMod p) ≠ 0 := fun h0 => Nat.not_dvd_of_pos_of_lt ha hlt ((ZMod.natCast_eq_zero_iff a p).1 h0)
  have hfermat : ((a : ZMod p) ^ (decomp p).2) ^ 2 ^ (decomp p).1 = 1 := by
    rw [← pow_mul, mul_comm, ← hdecomp, ZMod.pow_card_sub_one_eq_one hne]
  simp only [mrRound_pass_iff hp.two_le hodd hdecomp hm, mod_eq_one_iff_cast hp.two_le, mod_eq_pred_iff_cast hp.two_le,
    Nat.cast_pow, mul_comm _ (decomp p).2, pow_mul]
  exact eq_one_or_exists_pow_two_pow_eq_neg_one _ _ hfermat

/-! ## What MRW and MRT evaluate to, and how that retires -/

/-- A command whose evaluation completes with T alone retires with T written and everything else kept. -/
theorem exec_of_complete_t {i : Instr} {s : State} {b : Bool} (h : evaluate i s = .complete { t := some b }) :
    ∃ s', exec i s = .next s' ∧ s'.t = b ∧ s'.x = s.x ∧ s'.bs = s.bs ∧ CompletedFrom s s' := by
  have hexec := exec_eq i s
  rw [h] at hexec
  exact ⟨_, hexec, rfl, rfl, rfl, complete_completedFrom s _⟩

/-- T of MRW is 1 exactly when the round passes (R156). -/
theorem verdictFlag_eq_true_iff {v : Verdict} : verdictFlag v = true ↔ v = .pass := by
  rw [verdictFlag, beq_iff_eq]

/-- In its ranges MRW completes with the round's verdict (R156). -/
theorem evaluate_mrw_of_ok {s : State} {rs1 rs2 : Reg} (hn : candidateOk (s.reg rs1) = true)
    (ha : witnessOk (s.reg rs1) (s.reg rs2) = true) :
    evaluate (.mrw rs1 rs2) s = .complete { t := some (verdictFlag (mrRound (s.reg rs1) (s.reg rs2))) } := by
  simp [evaluate, evalMrw, hn, ha]

/-- Outside its ranges MRW raises RANGE (R157). -/
theorem evaluate_mrw_of_not_ok {s : State} {rs1 rs2 : Reg}
    (h : ¬(candidateOk (s.reg rs1) = true ∧ witnessOk (s.reg rs1) (s.reg rs2) = true)) :
    evaluate (.mrw rs1 rs2) s = .fault .range := by
  rw [evaluate, evalMrw]
  by_cases hn : candidateOk (s.reg rs1) = true
  · rw [if_neg (by simp [hn]), if_pos (Bool.eq_false_iff.2 fun ha => h ⟨hn, ha⟩)]
  · rw [if_pos (Bool.eq_false_iff.2 hn)]

/-- On an odd candidate of 5 or more MRT is its rounds (R154). -/
theorem mrtTest_of_candidate {n : Nat} (h5 : 5 ≤ n) (hodd : n % 2 = 1) (k : Nat) (draws : List Nat) :
    mrtTest n k draws = mrtRounds n k draws := by
  rw [mrtTest, if_neg (by omega), if_neg (by omega), if_neg (by omega)]

/-- On the other candidates MRT decides at once, whatever the answers (R154). -/
theorem mrtTest_of_not_candidate {n : Nat} (h : n ≤ 3 ∨ n % 2 = 0) (k : Nat) (draws : List Nat) :
    mrtTest n k draws = .complete { t := some (decide (n = 2 ∨ n = 3)) } := by
  rw [mrtTest]
  by_cases h1 : n ≤ 1
  · rw [if_pos h1, decide_eq_false (by omega)]
  by_cases h23 : n = 2 ∨ n = 3
  · rw [if_neg h1, if_pos h23, decide_eq_true h23]
  · rw [if_neg h1, if_neg h23, if_pos (by omega), decide_eq_false h23]

section
variable {n a : Nat} (k : Nat) (post : List Nat)

/-- A round whose answer is outside [2, n - 2] raises RND (R165). -/
theorem mrtRounds_succ_of_outside (h : a < 2 ∨ n - 2 < a) : mrtRounds n (k + 1) (a :: post) = .fault .rnd := by
  have hout : witnessOk n a = false := by
    rw [← Bool.not_eq_true, witnessOk_iff]
    omega
  rw [mrtRounds, if_pos hout]

/-- A round that is composite ends the test with T = 0 (R164). -/
theorem mrtRounds_succ_of_composite (h2 : 2 ≤ a) (hle : a ≤ n - 2) (h : mrRound n a = .composite) :
    mrtRounds n (k + 1) (a :: post) = .complete { t := some false } := by
  rw [mrtRounds, witnessOk_iff.2 ⟨h2, hle⟩, if_neg (by decide), if_pos h]

end

/-- After passing answers MRT on an odd candidate of 5 or more is the rounds that are left, on the answers that are left
(R164). -/
theorem evaluate_mrt_of_append {s : State} {rs1 : Reg} {pre post : List Nat} (h5 : 5 ≤ s.reg rs1)
    (hodd : s.reg rs1 % 2 = 1) (hdraws : s.draws = pre ++ post) (hpass : AllPass (s.reg rs1) pre)
    (hlen : pre.length ≤ s.rounds.toNat) :
    evaluate (.mrt rs1) s = mrtRounds (s.reg rs1) (s.rounds.toNat - pre.length) post := by
  rw [evaluate, evalMrt, hdraws, mrtTest_of_candidate h5 hodd, mrtRounds_append post hpass hlen]

/-- The rounds of a prime complete only with T = 1 (R169). -/
theorem mrtRounds_complete_of_prime {p : Nat} {u : Updates} (hp : p.Prime) (hodd : p % 2 = 1) :
    ∀ {draws : List Nat} {k : Nat}, mrtRounds p k draws = .complete u → u.t = some true
  | draws, 0, h => by
    rw [mrtRounds_zero] at h
    cases h
    rfl
  | [], k + 1, h => by cases h
  | a :: rest, k + 1, h => by
    have hp2 := hp.two_le
    by_cases ha : 2 ≤ a ∧ a ≤ p - 2
    · have hpass := mrRound_pass_of_prime hp hodd (by omega : 0 < a) (by omega)
      have hnext := mrtRounds_append (n := p) (pre := [a]) (k := k + 1) rest (by simp [ha, hpass]) (by simp)
      exact mrtRounds_complete_of_prime hp hodd (hnext.symm.trans h)
    · rw [mrtRounds_succ_of_outside k rest (by omega)] at h
      cases h

/-- The whole test of a prime completes only with T = 1 (R169). -/
theorem mrtTest_complete_of_prime {p k : Nat} {draws : List Nat} {u : Updates} (hp : p.Prime)
    (h : mrtTest p k draws = .complete u) : u.t = some true := by
  obtain rfl | hodd := hp.eq_two_or_odd
  · rw [mrtTest_of_not_candidate (by omega)] at h
    cases h
    rfl
  by_cases h5 : 5 ≤ p
  · rw [mrtTest_of_candidate h5 hodd] at h
    exact mrtRounds_complete_of_prime hp hodd h
  · have hp2 := hp.two_le
    obtain rfl : p = 3 := by omega
    rw [mrtTest_of_not_candidate (by omega)] at h
    cases h
    rfl

/-! ## The obligations about MRW and MRT -/

/-- Settles O39: the round's verdict is the statement's, the decomposition being unique; either check raises RANGE. -/
theorem mrwRunsOneRound : Obligations.MrwRunsOneRound := by
  unfold Obligations.MrwRunsOneRound
  intro s rs1 rs2
  refine ⟨fun h5 hodd h2 hle => ?_, fun hout => ?_⟩
  · obtain ⟨s', hexec, ht, hx, hbs, hdone⟩ :=
      exec_of_complete_t (evaluate_mrw_of_ok (candidateOk_iff.2 ⟨h5, hodd⟩) (witnessOk_iff.2 ⟨h2, hle⟩))
    refine ⟨s', hexec, fun r m h hm => ?_, hx, hbs, hdone⟩
    rw [ht, verdictFlag_eq_true_iff, mrRound_pass_iff (by omega) hodd h hm]
  · refine exec_of_fault (evaluate_mrw_of_not_ok ?_)
    rw [candidateOk_iff, witnessOk_iff]
    omega

/-- Settles O40: these candidates are decided before any round. -/
theorem mrtClassifiesSmallAndEven : Obligations.MrtClassifiesSmallAndEven := by
  unfold Obligations.MrtClassifiesSmallAndEven
  intro s rs1 h
  obtain ⟨s', hexec, ht, hrest⟩ := exec_of_complete_t (i := .mrt rs1) (mrtTest_of_not_candidate h s.rounds.toNat s.draws)
  exact ⟨s', hexec, by rw [ht, decide_eq_true_iff], hrest⟩

/-- Settles O41: the passing answers use up their rounds, and what follows them decides. -/
theorem mrtRunsTheRounds : Obligations.MrtRunsTheRounds := by
  unfold Obligations.MrtRunsTheRounds
  rintro s rs1 n rfl h5 hodd
  refine ⟨fun hlen hpass => ?_, fun pre post a hdraws hlen hpass => ?_, fun hlen hpass => ?_⟩
  · have htake : (s.draws.take s.rounds.toNat).length = s.rounds.toNat := List.length_take_of_le hlen
    have hev := evaluate_mrt_of_append h5 hodd (List.take_append_drop _ _).symm hpass htake.le
    rw [htake, Nat.sub_self, mrtRounds_zero] at hev
    exact exec_of_complete_t hev
  · obtain ⟨k, hk⟩ := Nat.exists_eq_succ_of_ne_zero (Nat.sub_ne_zero_of_lt hlen)
    have hev := evaluate_mrt_of_append h5 hodd hdraws hpass hlen.le
    rw [hk] at hev
    exact ⟨fun hout => exec_of_fault (hev.trans (mrtRounds_succ_of_outside k post hout)),
      fun h2 hle hcomp => exec_of_complete_t (hev.trans (mrtRounds_succ_of_composite k post h2 hle hcomp))⟩
  · obtain ⟨k, hk⟩ := Nat.exists_eq_succ_of_ne_zero (Nat.sub_ne_zero_of_lt hlen)
    have hev := evaluate_mrt_of_append h5 hodd (List.append_nil _).symm hpass hlen.le
    rw [exec_eq, hev, hk]
    rfl

/-- Settles O43: a prime's test completes only with T = 1, and a fault or a request shows in ERR or BUSY. -/
theorem mrtNeverRejectsPrime : Obligations.MrtNeverRejectsPrime := by
  unfold Obligations.MrtNeverRejectsPrime
  intro s s' rs1 hp hb _ hexec hb' he'
  rw [exec_eq] at hexec
  cases hexec
  cases hev : evaluate (.mrt rs1) s with
  | complete u =>
    have ht : u.t = some true := mrtTest_complete_of_prime hp hev
    simp [State.settle, ht]
  | fault c =>
    rw [hev] at he'
    exact nomatch he'
  | needDraw lo hi =>
    rw [hev] at hb'
    exact nomatch hb.symm.trans hb'

end Sys2Proof.Machine
end

section
/-! SUPPORT. What GCD and MODINV evaluate to (spec/42_gcd_inverse.md R182, R188, R189), the inverse as the only one below its
modulus (R188), the host's search for an exponent (spec/44_host_sequences.md R243), and the statements about the three. -/

namespace Sys2Proof.Machine

/-! ## GCD -/

/-- T of GCD is 1 exactly when the divisor is 1 (R182). -/
theorem gcdFlag_eq_true_iff {g : Nat} : gcdFlag g = true ↔ g = 1 := by
  rw [gcdFlag, beq_iff_eq]

/-- Settles O44: GCD always completes, with `Nat.gcd` of the operands as they were before `rd` is written. -/
theorem gcdWritesGreatestCommonDivisor : Obligations.GcdWritesGreatestCommonDivisor := by
  unfold Obligations.GcdWritesGreatestCommonDivisor
  intro s rd rs1 rs2
  have hev : evaluate (.gcd rd rs1 rs2) s = .complete
      { dest := some (rd, Nat.gcd (s.reg rs1) (s.reg rs2)), t := some (gcdFlag (Nat.gcd (s.reg rs1) (s.reg rs2))) } := rfl
  obtain ⟨s', hexec, hrd, hother, hbs, ht, hdone⟩ := exec_of_complete_dest hev
  refine ⟨s', hexec, ?_, ?_, ?_, ?_, hother, hbs, hdone⟩
  · exact hrd ▸ Nat.gcd_dvd_left _ _
  · exact hrd ▸ Nat.gcd_dvd_right _ _
  · exact fun k h1 h2 => hrd ▸ Nat.dvd_gcd h1 h2
  · rw [ht, hrd, Option.getD_some, gcdFlag_eq_true_iff]

/-! ## MODINV -/

/-- An inverse below the modulus is the one `modInverse` gives (R188): `a` cancels modulo what it is coprime to. -/
theorem eq_modInverse {a m d : Nat} (hg : Nat.gcd a m = 1) (hd : d < m) (h : a * d % m = 1 % m) :
    d = modInverse a m := by
  have hm : 0 < m := Nat.zero_lt_of_lt hd
  have hmul : a * d ≡ a * modInverse a m [MOD m] := h.trans (mul_modInverse hm hg).symm
  exact (hmul.cancel_left_of_coprime (Nat.gcd_comm m a ▸ hg)).eq_of_lt_of_lt hd (modInverse_lt hm)

section
variable {s : State} {rs1 rs2 : Reg} (rd : Reg)

/-- On a modulus coprime to the number MODINV completes with the inverse (R188). -/
theorem evaluate_modinv_of_coprime (hm : s.reg rs2 ≠ 0) (hg : Nat.gcd (s.reg rs1) (s.reg rs2) = 1) :
    evaluate (.modinv rd rs1 rs2) s = .complete { dest := some (rd, modInverse (s.reg rs1) (s.reg rs2)) } := by
  rw [evaluate, evalModinv, if_neg hm, if_neg (not_not_intro hg)]

/-- A zero modulus raises MODULUS, before the common divisor is looked at (R189). -/
theorem evaluate_modinv_of_eq_zero (hm : s.reg rs2 = 0) : evaluate (.modinv rd rs1 rs2) s = .fault .modulus := by
  rw [evaluate, evalModinv, if_pos hm]

/-- A common divisor raises NOT_COPRIME (R189). -/
theorem evaluate_modinv_of_not_coprime (hm : s.reg rs2 ≠ 0) (hg : Nat.gcd (s.reg rs1) (s.reg rs2) ≠ 1) :
    evaluate (.modinv rd rs1 rs2) s = .fault .notCoprime := by
  rw [evaluate, evalModinv, if_neg hm, if_pos hg]

end

/-- Settles O45: the Bézout coefficient is an inverse (`mul_modInverse`) and the only one below the modulus
(`eq_modInverse`); the two checks come in R189's order. -/
theorem modinvWritesTheInverse : Obligations.ModinvWritesTheInverse := by
  unfold Obligations.ModinvWritesTheInverse
  intro s rd rs1 rs2
  refine ⟨fun hm hg => ?_, fun hm => ?_, fun hm hg => ?_⟩
  · obtain ⟨s', hexec, hrd, hother, hbs, ht, hdone⟩ := exec_of_complete_dest (evaluate_modinv_of_coprime rd hm hg)
    have hpos := Nat.pos_of_ne_zero hm
    exact ⟨s', hexec, hrd ▸ modInverse_lt hpos, hrd ▸ mul_modInverse hpos hg, fun d hd h => hrd ▸ eq_modInverse hg hd h,
      hother, hbs, ht, hdone⟩
  · exact exec_of_fault (evaluate_modinv_of_eq_zero rd hm)
  · exact exec_of_fault (evaluate_modinv_of_not_coprime rd hm hg)

/-! ## Key derivation -/

/-- The exponent found is one of the samples, in range and coprime to φ (R243). -/
theorem findExponent_eq_some {phi e : Nat} : ∀ {samples : List Nat}, findExponent phi samples = some e →
    e ∈ samples ∧ 2 ≤ e ∧ e ≤ phi - 1 ∧ Nat.gcd e phi = 1
  | [], h => nomatch h
  | x :: rest, h => by
    rw [findExponent] at h
    split at h
    · rename_i hx
      cases h
      exact ⟨List.mem_cons_self, hx⟩
    · obtain ⟨hmem, hok⟩ := findExponent_eq_some h
      exact ⟨List.mem_cons_of_mem x hmem, hok⟩

/-- A derived key pair is the product, an exponent the search found, and its inverse (R243). -/
theorem deriveKeys_eq_some {p q : Nat} {samples : List Nat} {k : KeyPair} (h : deriveKeys p q samples = some k) :
    ∃ e, findExponent ((p - 1) * (q - 1)) samples = some e ∧ k = ⟨p * q, e, modInverse e ((p - 1) * (q - 1))⟩ := by
  rw [deriveKeys] at h
  split at h
  · cases h
  · rename_i e he
    cases h
    exact ⟨e, he, rfl⟩

/-- Settles O54: the search's checks on e, then the inverse's value; 2 ≤ e ≤ φ - 1 makes φ more than 1, so that
1 mod φ is 1. -/
theorem derivedKeysAreInverse : Obligations.DerivedKeysAreInverse := by
  unfold Obligations.DerivedKeysAreInverse
  intro p q samples k h
  obtain ⟨e, he, rfl⟩ := deriveKeys_eq_some h
  obtain ⟨hmem, hlo, hhi, hg⟩ := findExponent_eq_some he
  have hphi : 1 < (p - 1) * (q - 1) := by omega
  exact ⟨rfl, hmem, hlo, hhi, hg, modInverse_lt (Nat.zero_lt_of_lt hphi),
    (mul_modInverse (Nat.zero_lt_of_lt hphi) hg).trans (Nat.mod_eq_of_lt hphi)⟩

end Sys2Proof.Machine
end

section
/-! SUPPORT. The pad formula against the value it pads: which low bits they share and how large it is
(spec/43_block_padding.md R216, R222); what BLKSZ, LENCHK, PAD and UNPAD evaluate to (R203, R207, R213, R214, R219, R220), and
the statements about the four. -/

namespace Sys2Proof.Machine

/-- A command whose evaluation completes retires with its writes done. -/
theorem exec_of_complete {i : Instr} {s : State} {u : Updates} (h : evaluate i s = .complete u) :
    exec i s = .next (s.complete u) := by
  rw [exec_eq, h]
  rfl

/-! ## Byte lengths and the pad formula -/

/-- The byte length is the only least number of bytes a value fits in (R18). -/
theorem bytelen_eq_of_least {v L : Nat} (hv : v < 2 ^ (8 * L)) (hleast : ∀ k, v < 2 ^ (8 * k) → L ≤ k) :
    bytelen v = L :=
  le_antisymm (bytelen_le_iff.2 hv) (hleast _ (bytelen_le_iff.1 le_rfl))

/-- The two marker terms are one odd multiple of 2^(8P+1). -/
theorem padValue_eq (p v : Nat) : padValue p v = v + 2 ^ (8 * p + 1) * (2 ^ 15 + 1) := by
  rw [padValue, Config.markerHigh, Config.markerLow]
  ring

/-- The pad formula keeps the low 8k bits of the value exactly for k ≤ P (R222): 2^(8k) divides the marker terms exactly
when it divides 2^(8P+1). -/
theorem padValue_modEq_iff {p v k : Nat} : padValue p v ≡ v [MOD 2 ^ (8 * k)] ↔ k ≤ p := by
  have hodd : Nat.Coprime (2 ^ (8 * k)) (2 ^ 15 + 1) := Nat.Coprime.pow_left _ (by decide)
  calc padValue p v ≡ v [MOD 2 ^ (8 * k)]
      ↔ 2 ^ (8 * k) ∣ 2 ^ (8 * p + 1) * (2 ^ 15 + 1) := by rw [padValue_eq, Nat.add_modEq_left_iff]
    _ ↔ 2 ^ (8 * k) ∣ 2 ^ (8 * p + 1) := hodd.dvd_mul_right
    _ ↔ 8 * k ≤ 8 * p + 1 := Nat.pow_dvd_pow_iff_le_right one_lt_two
    _ ↔ k ≤ p := by omega

/-- The pad formula stays below 2^(8 BS + 1) (R216): in units of 2^(8 BS - 16) its terms are at most 2^16, 2 and 1. -/
theorem padValue_lt_two_pow {bs v : Nat} (hL : bytelen v + 2 ≤ bs) :
    padValue (bs - bytelen v - 2) v < 2 ^ (8 * bs + 1) := by
  have hv : v < 2 ^ (8 * bytelen v) := bytelen_le_iff.1 le_rfl
  have hval : 2 ^ (8 * bytelen v) ≤ 2 ^ (8 * bs - 16) := Nat.pow_le_pow_right (by decide) (by omega)
  have hmark : 2 ^ (8 * (bs - bytelen v - 2)) ≤ 2 ^ (8 * bs - 16) := Nat.pow_le_pow_right (by decide) (by omega)
  have htop : 2 ^ (8 * bs + 1) = 2 ^ (8 * bs - 16) * 2 ^ 17 := by rw [← pow_add]; congr 1; omega
  rw [padValue, Config.markerHigh, Config.markerLow, pow_add, htop]
  omega

/-- Unpadding the pad formula keeps the low 8k bits of the value exactly for k ≤ P, of the P + L bytes left (R222). -/
theorem unpadValue_padValue_modEq_iff {p L v k : Nat} (hk : k ≤ p + L) :
    unpadValue (p + L + 2) (padValue p v) ≡ v [MOD 2 ^ (8 * k)] ↔ k ≤ p := by
  have hdvd : 2 ^ (8 * k) ∣ 2 ^ (8 * (p + L + 2) - 16) := pow_dvd_pow 2 (by omega)
  rw [unpadValue_eq_mod, Nat.ModEq, Nat.mod_mod_of_dvd _ hdvd]
  exact padValue_modEq_iff

/-! ## What the four commands evaluate to -/

section
variable {s : State} {rs1 : Reg} (rd : Reg)

/-- In its ranges PAD completes with the pad formula (R213); 2 ≤ BS follows from P ≥ 0. -/
theorem evaluate_pad_of_fits (hmax : s.bs.toNat ≤ s.width / 8 - 1) (hL : bytelen (s.reg rs1) + 2 ≤ s.bs.toNat) :
    evaluate (.pad rd rs1) s =
      .complete { dest := some (rd, padValue (s.bs.toNat - bytelen (s.reg rs1) - 2) (s.reg rs1)) } := by
  have hok : s.blockSizeOk = true := blockSizeOk_iff.2 ⟨(Nat.le_add_left 2 _).trans hL, hmax⟩
  rw [evaluate, evalPad, if_neg (by simp [hok]), if_neg (padOffset_neg.not.2 hL.not_gt), padOffset_of_le hL,
    Int.toNat_natCast]

/-- Outside its ranges PAD raises RANGE, by the window's check or by P's (R214). -/
theorem evaluate_pad_of_not_fits
    (h : s.bs.toNat < 2 ∨ s.width / 8 - 1 < s.bs.toNat ∨ s.bs.toNat < bytelen (s.reg rs1) + 2) :
    evaluate (.pad rd rs1) s = .fault .range := by
  rw [evaluate, evalPad]
  rcases or_assoc.2 h with hwindow | hP
  · rw [if_pos (blockSizeOk_false_iff.2 hwindow)]
  · rw [if_pos (padOffset_neg.2 hP), ite_self]

/-- In the block-size window UNPAD completes with the masked value (R219). -/
theorem evaluate_unpad_of_ok (hmin : 2 ≤ s.bs.toNat) (hmax : s.bs.toNat ≤ s.width / 8 - 1) :
    evaluate (.unpad rd rs1) s = .complete { dest := some (rd, unpadValue s.bs.toNat (s.reg rs1)) } := by
  rw [evaluate, evalUnpad, if_neg (by simp [blockSizeOk_iff.2 ⟨hmin, hmax⟩])]

/-- Outside the window UNPAD raises RANGE (R220). -/
theorem evaluate_unpad_of_not_ok (h : s.bs.toNat < 2 ∨ s.width / 8 - 1 < s.bs.toNat) :
    evaluate (.unpad rd rs1) s = .fault .range := by
  rw [evaluate, evalUnpad, if_pos (blockSizeOk_false_iff.2 h)]

end

section
variable {s : State}

/-- A message that fits completes LENCHK with no write (R207). -/
theorem evaluate_lenchk_of_le (h : s.mlen.toNat + 11 ≤ s.bs.toNat) : evaluate .lenchk s = .complete {} := by
  rw [evaluate, evalLenchk, if_neg (by rw [Config.headroom]; omega)]

/-- A longer one raises MSG_TOO_LONG (R207). -/
theorem evaluate_lenchk_of_lt (h : s.bs.toNat < s.mlen.toNat + 11) : evaluate .lenchk s = .fault .msgTooLong := by
  rw [evaluate, evalLenchk, if_pos (by rw [Config.headroom]; omega)]

/-- A register's byte length is at most 4 * NLIMB, and so fits the 32 bits of BS (R203). -/
theorem State.Fits.bytelen_lt (h : s.Fits) (r : Reg) : bytelen (s.reg r) < 2 ^ 32 := by
  have hn := (nlimbOk_iff.1 h.nlimb).2
  have hlen : bytelen (s.reg r) ≤ 4 * s.nlimb :=
    bytelen_le_iff.2 ((h.regs r).trans_eq (congrArg (2 ^ ·) (by rw [State.width]; omega)))
  omega

end

/-! ## The statements -/

/-- Settles O46: BS takes the byte length, which does not wrap in a legal state, and `bytelen_le_iff` says it is the
least. -/
theorem blkszWritesByteLength : Obligations.BlkszWritesByteLength := by
  unfold Obligations.BlkszWritesByteLength
  intro s rs1 hlegal
  have hbs : (BitVec.ofNat 32 (bytelen (s.reg rs1))).toNat = bytelen (s.reg rs1) := by
    rw [BitVec.toNat_ofNat, Nat.mod_eq_of_lt (hlegal.fits.bytelen_lt rs1)]
  refine ⟨_, exec_of_complete rfl, ?_, fun k hk => ?_, rfl, rfl, complete_completedFrom s _⟩
  · exact bytelen_le_iff.1 hbs.ge
  · exact hbs.trans_le (bytelen_le_iff.2 hk)

/-- Settles O47: the integer comparison is MLEN + 11 against BS. -/
theorem lenchkComparesOverIntegers : Obligations.LenchkComparesOverIntegers := by
  unfold Obligations.LenchkComparesOverIntegers
  intro s
  exact ⟨fun h => ⟨_, exec_of_complete (evaluate_lenchk_of_le h), rfl, rfl, rfl, complete_completedFrom s _⟩,
    fun h => exec_of_fault (evaluate_lenchk_of_lt h)⟩

/-- Settles O48: the least byte count L is the command's own `bytelen`, so the statement's two ranges are the two ways
PAD evaluates. -/
theorem padWritesTheFormula : Obligations.PadWritesTheFormula := by
  unfold Obligations.PadWritesTheFormula
  intro s rd rs1 L hv hleast
  obtain rfl := bytelen_eq_of_least hv hleast
  refine ⟨fun _ hmax hL => ?_, fun h => exec_of_fault (evaluate_pad_of_not_fits rd h)⟩
  obtain ⟨s', hexec, hrd, hframe⟩ := exec_of_complete_dest (evaluate_pad_of_fits rd hmax hL)
  exact ⟨s', hexec, by rw [hrd, padValue, one_mul], hframe⟩

/-- Settles O49: a PAD outside its ranges leaves DONE clear, so one that completes wrote the pad formula, which
`padValue_lt_two_pow` bounds; BS ≤ W/8 - 1 gives the second bound. -/
theorem padResultFitsRegister : Obligations.PadResultFitsRegister := by
  unfold Obligations.PadResultFitsRegister
  intro s s' rd rs1 hdone hexec hdone'
  by_cases hfits : s.bs.toNat ≤ s.width / 8 - 1 ∧ bytelen (s.reg rs1) + 2 ≤ s.bs.toNat
  · obtain ⟨hmax, hL⟩ := hfits
    obtain ⟨s₁, hexec₁, hrd, -⟩ := exec_of_complete_dest (evaluate_pad_of_fits rd hmax hL)
    cases hexec.symm.trans hexec₁
    exact ⟨hrd ▸ padValue_lt_two_pow hL, Nat.pow_le_pow_right (by decide) (by omega)⟩
  · obtain ⟨s₁, hexec₁, hfault⟩ := exec_of_fault (evaluate_pad_of_not_fits rd (rs1 := rs1) (s := s) (by omega))
    cases hexec.symm.trans hexec₁
    rw [hfault.done, hdone] at hdone'
    cases hdone'

/-- Settles O50: the mask is the remainder by 2^(8 BS - 16) (`unpadValue_eq_mod`), and nothing but the window is
checked. -/
theorem unpadKeepsLowBytes : Obligations.UnpadKeepsLowBytes := by
  unfold Obligations.UnpadKeepsLowBytes
  intro s rd rs1
  refine ⟨fun hmin hmax => ?_, fun h => exec_of_fault (evaluate_unpad_of_not_ok rd h)⟩
  obtain ⟨s', hexec, hrd, hframe⟩ := exec_of_complete_dest (evaluate_unpad_of_ok rd hmin hmax)
  exact ⟨s', hexec, hrd, hrd.trans (unpadValue_eq_mod _ _), hframe⟩

/-- Settles O51: PAD keeps BS and W, so UNPAD masks the pad formula with the same BS; which low bytes survive is
`unpadValue_padValue_modEq_iff`, and for L = 0 both the result and v are below 2^(8P), where it says they agree. -/
theorem unpadAfterPadKeepsBytesBelowP : Obligations.UnpadAfterPadKeepsBytesBelowP := by
  unfold Obligations.UnpadAfterPadKeepsBytesBelowP
  intro s rd rm rs1 L P hv hleast hbs hmax
  obtain rfl := bytelen_eq_of_least hv hleast
  obtain ⟨s', hpad, hrm, -, hbs', -, hdone⟩ := exec_of_complete_dest (evaluate_pad_of_fits rm (rs1 := rs1) hmax (by omega))
  have hwidth : s'.width = s.width := State.width_congr hdone.nlimb
  obtain ⟨s'', hunpad, hrd, -⟩ := exec_of_complete_dest
    (evaluate_unpad_of_ok rd (s := s') (rs1 := rm) (by rw [hbs']; omega) (by rw [hbs', hwidth]; exact hmax))
  have hP : P + bytelen (s.reg rs1) + 2 - bytelen (s.reg rs1) - 2 = P := by omega
  rw [hrm, hbs', hbs, hP] at hrd
  refine ⟨s', s'', hpad, hunpad, fun k hk => ?_, fun k hlo hhi => ?_, fun hL => ?_⟩
  · exact hrd ▸ (unpadValue_padValue_modEq_iff (by omega)).2 hk
  · exact hrd ▸ (unpadValue_padValue_modEq_iff hhi).not.2 hlo.not_ge
  · have hagree : s''.reg rd ≡ s.reg rs1 [MOD 2 ^ (8 * P)] :=
      hrd ▸ (unpadValue_padValue_modEq_iff (Nat.le_add_right P _)).2 le_rfl
    refine hagree.eq_of_lt_of_lt ?_ (bytelen_le_iff.1 (by omega))
    rw [hrd, unpadValue_eq_mod, hL]
    exact Nat.mod_lt _ (by positivity)

end Sys2Proof.Machine
end

section
/-! SUPPORT. Byte strings as big-endian numbers (spec/00_scope.md R22), the split of at most one block (R231, R232), encryption
and decryption of one block (spec/44_host_sequences.md R233, R236), and the statement about their round trip (R238). -/

namespace Sys2Proof.Machine

/-! ## Byte strings as numbers -/

@[simp] theorem fromBe_append_singleton (l : List Byte) (b : Byte) : fromBe (l ++ [b]) = fromBe l * 2 ^ 8 + b.toNat := by
  simp [fromBe]

@[simp] theorem beBytes_length (v k : Nat) : (beBytes v k).length = k := by
  induction k generalizing v with
  | zero => rfl
  | succ k ih => rw [beBytes, List.length_append, ih, List.length_singleton]

/-- A string of k bytes stands for a number below 2^(8k) (R22). -/
theorem fromBe_lt (l : List Byte) : fromBe l < 2 ^ (8 * l.length) := by
  induction l using List.reverseRecOn with
  | nil => decide
  | append_singleton l b ih =>
    have hb : b.toNat < 2 ^ 8 := b.isLt
    rw [fromBe_append_singleton, List.length_append, List.length_singleton, Nat.mul_succ, pow_add]
    omega

/-- The bytes of a number read back as its low 8k bits (R22). -/
@[simp] theorem fromBe_beBytes (v k : Nat) : fromBe (beBytes v k) = v % 2 ^ (8 * k) := by
  induction k generalizing v with
  | zero => exact (Nat.mod_one v).symm
  | succ k ih =>
    have hquot : v / 256 = v / 2 ^ 8 := rfl
    rw [beBytes, fromBe_append_singleton, ih, BitVec.toNat_ofNat, Nat.mul_succ, add_comm (8 * k), pow_add, Nat.mod_mul,
      hquot]
    omega

/-- A byte string is the bytes of its number (R22). -/
@[simp] theorem beBytes_fromBe (l : List Byte) : beBytes (fromBe l) l.length = l := by
  induction l using List.reverseRecOn with
  | nil => rfl
  | append_singleton l b ih =>
    have hb : b.toNat < 2 ^ 8 := b.isLt
    have hquot : (fromBe l * 2 ^ 8 + b.toNat) / 256 = fromBe l := by omega
    have hlast : BitVec.ofNat 8 (fromBe l * 2 ^ 8 + b.toNat) = b := by
      apply BitVec.eq_of_toNat_eq
      rw [BitVec.toNat_ofNat]
      omega
    rw [fromBe_append_singleton, List.length_append, List.length_singleton, beBytes, hquot, hlast, ih]

/-- Two numbers have the same k bytes exactly when their low 8k bits agree. -/
theorem beBytes_eq_iff {u v k : Nat} : beBytes u k = beBytes v k ↔ u ≡ v [MOD 2 ^ (8 * k)] := by
  rw [Nat.ModEq, ← fromBe_beBytes, ← fromBe_beBytes]
  refine ⟨congrArg fromBe, fun h => ?_⟩
  rw [← beBytes_fromBe (beBytes u k), ← beBytes_fromBe (beBytes v k), h, beBytes_length, beBytes_length]

/-- The last k of the bytes of a number are its k bytes. -/
theorem beBytes_drop (v j k : Nat) : (beBytes v (j + k)).drop j = beBytes v k := by
  induction k generalizing v with
  | zero => exact List.drop_eq_nil_of_le (beBytes_length _ _).le
  | succ k ih =>
    rw [← add_assoc, beBytes, List.drop_append_of_le_length (by rw [beBytes_length]; omega), ih, beBytes]

/-! ## Encryption and decryption of at most one block -/

@[simp] theorem splitBlocks_nil (bs : Nat) : splitBlocks [] bs = [] := rfl

/-- A string that is not empty and not longer than a block is one block (R231, R232). -/
theorem splitBlocks_of_length_le {data : List Byte} {bs : Nat} (hne : data ≠ []) (hlen : data.length ≤ bs) :
    splitBlocks data bs = [fromBe data] := by
  obtain ⟨k, hk⟩ := Nat.exists_eq_succ_of_ne_zero (List.length_pos_of_ne_nil hne).ne'
  have hrest : chunks bs k [] = [] := by cases k <;> rfl
  rw [splitBlocks, hk, chunks, if_neg (by simp [hne]), List.take_of_length_le hlen, List.drop_eq_nil_of_le hlen, hrest]
  rfl

/-- PAD's formula for a value whose offset P is not negative (R213). -/
theorem padBlock_of_le {v bs : Nat} (h : bytelen v + 2 ≤ bs) : padBlock v bs = padValue (bs - bytelen v - 2) v := by
  rw [padBlock, padOffset_of_le h, Int.toNat_natCast]

section
variable {m : List Byte} {n : Nat} (e : Nat)

/-- A message that fits the length check has its padding's headroom (R234). -/
theorem bytelen_fromBe_add_two_le (h : m.length + 11 ≤ bytelen n) : bytelen (fromBe m) + 2 ≤ bytelen n := by
  have hL := bytelen_le_iff.2 (fromBe_lt m)
  omega

/-- A message longer than bs - 11 bytes is MessageTooLong (R233). -/
theorem encrypt_of_lt (h : bytelen n < m.length + 11) : encrypt m n e = none := by
  rw [encrypt, if_pos (by rw [Config.headroom]; omega)]

/-- The empty message has the empty ciphertext (R233). -/
theorem encrypt_nil (h : 11 ≤ bytelen n) : encrypt [] n e = some ([], 0) := by
  rw [encrypt, if_neg (by rw [Config.headroom, List.length_nil]; omega)]
  rfl

/-- Any other message that fits is encrypted as one block of bs bytes (R232, R233). -/
theorem encrypt_of_le (hne : m ≠ []) (h : m.length + 11 ≤ bytelen n) :
    encrypt m n e = some (beBytes (modexp (padBlock (fromBe m) (bytelen n)) e n) (bytelen n), m.length) := by
  rw [encrypt, if_neg (by rw [Config.headroom]; omega), splitBlocks_of_length_le hne (by omega), List.flatMap_singleton]

/-- A ciphertext of one whole block is decrypted by one MODEXP and one UNPAD, to the bytes of the masked value (R236). -/
theorem decrypt_of_block {c len d : Nat} (hbs : 2 ≤ bytelen n) (hc : c < n) (hlen : len ≤ bytelen n - 1) :
    decrypt (beBytes c (bytelen n)) len n d = beBytes (unpadValue (bytelen n) (modexp c d n)) len := by
  have hne : beBytes c (bytelen n) ≠ [] := List.ne_nil_of_length_pos (by rw [beBytes_length]; omega)
  have hfrom : fromBe (beBytes c (bytelen n)) = c := by
    rw [fromBe_beBytes, Nat.mod_eq_of_lt (hc.trans (bytelen_le_iff.1 le_rfl))]
  have hout : decryptBytes (beBytes c (bytelen n)) n d =
      beBytes (unpadValue (bytelen n) (modexp c d n)) (bytelen n - 1 - len + len) := by
    rw [decryptBytes, splitBlocks_of_length_le hne (beBytes_length _ _).le, List.flatMap_singleton, hfrom,
      Nat.sub_add_cancel hlen]
  simp only [decrypt, hout, beBytes_length]
  rw [if_neg (by omega), if_pos (by omega), Nat.add_sub_cancel, beBytes_drop]

end

/-- A number of at least one byte is not 0. -/
theorem pos_of_bytelen_pos {n : Nat} (h : 0 < bytelen n) : 0 < n := by
  rw [← Nat.not_le, bytelen_le_iff] at h
  simpa [Nat.pos_iff_ne_zero] using h

/-- Settles O52: the decryption is the last bytes of the unpadded block, and unpadding keeps the low bytes of the value
exactly up to P (`unpadValue_padValue_modEq_iff`). -/
theorem decryptReturnsMessageIffShort : Obligations.DecryptReturnsMessageIffShort := by
  unfold Obligations.DecryptReturnsMessageIffShort
  intro m n e d hpos hfits hinverts
  have hne : m ≠ [] := List.ne_nil_of_length_pos hpos
  have hc : modexp (padBlock (fromBe m) (bytelen n)) e n < n := by
    rw [modexp_eq]
    exact Nat.mod_lt _ (pos_of_bytelen_pos (by omega))
  refine ⟨_, encrypt_of_le e hne hfits, beBytes_length _ _, ?_⟩
  have hL := bytelen_fromBe_add_two_le hfits
  obtain ⟨p, hp⟩ : ∃ p, bytelen n = p + bytelen (fromBe m) + 2 := ⟨bytelen n - bytelen (fromBe m) - 2, by omega⟩
  have hP : bytelen n - bytelen (fromBe m) - 2 = p := by omega
  calc decrypt (beBytes (modexp (padBlock (fromBe m) (bytelen n)) e n) (bytelen n)) m.length n d = m
      ↔ beBytes (unpadValue (bytelen n) (padBlock (fromBe m) (bytelen n))) m.length = beBytes (fromBe m) m.length := by
        rw [decrypt_of_block (by omega) hc (by omega), hinverts, beBytes_fromBe]
    _ ↔ unpadValue (p + bytelen (fromBe m) + 2) (padValue p (fromBe m)) ≡ fromBe m [MOD 2 ^ (8 * m.length)] := by
        rw [beBytes_eq_iff, padBlock_of_le hL, hP, hp]
    _ ↔ m.length ≤ p := unpadValue_padValue_modEq_iff (by omega)
    _ ↔ m.length + bytelen (fromBe m) + 2 ≤ bytelen n := by omega

end Sys2Proof.Machine
end

section
/-! SUPPORT. A command of the host with its WAIT and its check of STATUS.ERR (spec/30_encoding.md R120,
spec/44_host_sequences.md R234): what the block is after the engine's first turn (R327), what the check does; and the statement
about the two. -/

namespace Sys2Proof.Machine

/-! ## A host sequence goes on after a line that went well, and stops at one that did not -/

@[simp] theorem HostResult.ok_bind {α β : Type} (a : α) (f : α → HostResult β) : (Except.ok a >>= f) = f a := rfl

@[simp] theorem HostResult.error_bind {α β : Type} (e : HostStop) (f : α → HostResult β) :
    (Except.error e >>= f) = .error e := rfl

/-! ## A command and its check -/

/-- What a command but MRT answers does not depend on its acceptance, which empties the answers only (R55, R166). -/
theorem evaluate_accept {i : Instr} (hi : ∀ rs1, i ≠ .mrt rs1) (s : State) (c : Word) :
    evaluate i (s.accept c) = evaluate i s := by
  cases i with
  | mrt rs1 => exact absurd rfl (hi rs1)
  | _ => rfl

/-- A command line on an idle block without ERR is accepted (R37, R119). -/
theorem play_lineCmd {s : State} (i : Instr) (hb : s.busy = false) (he : s.err = false) :
    play [lineCmd i] s = ((s.advance []).accept (encode i)).respond .okay := by
  rw [lineCmd, play_lineWr, State.store, State.writeCmd_of_idle (s := s.advance []) hb he]

/-- The engine's turn on a command in flight, as the next move (R55, R56). -/
theorem play_engine {s : State} {i : Instr} (hb : s.busy = true) (hp : s.pending = none) (hd : decode s.cmd = .ok i) :
    play [.engine] s = (s.advance []).settle (evaluate i s) := by
  rw [play_cons [] (step_settles (s := { s with script := [.engine] }) (.inl rfl) hb hp hd), play_nil]
  exact congrArg (s.advance []).settle (evaluate_advance i s [.engine])

/-- A command that asks for nothing settles by ending BUSY and leaving just one of DONE and ERR set, if neither was. -/
theorem settle_retires {s : State} {ev : Evaluation} (hask : ∀ lo hi, ev ≠ .needDraw lo hi) (hd : s.done = false)
    (he : s.err = false) :
    (s.settle ev).busy = false ∧ (s.settle ev).cmd = s.cmd ∧
      ((s.settle ev).done = true ↔ (s.settle ev).err = false) := by
  rcases settle_cases s ev with ⟨u, -, hs⟩ | ⟨c, -, hs⟩ | ⟨lo, hi, hev, -⟩
  · simp [hs, he]
  · simp [hs, hd]
  · exact absurd hev (hask lo hi)

/-- `s` once the host has issued `i`, the engine has evaluated it, and the host has read STATUS. -/
def State.afterCommand (s : State) (i : Instr) : State :=
  play [lineRd .status] (((s.advance []).accept (encode i)).settle (evaluate i s))

/-- Only MRT asks (R166), so every other command has retired by then, and acceptance had left DONE 0 (R55, R57). -/
theorem afterCommand_retired {s : State} {i : Instr} (hi : ∀ rs1, i ≠ .mrt rs1) (he : s.err = false) :
    (s.afterCommand i).busy = false ∧ (s.afterCommand i).cmd = encode i ∧
      ((s.afterCommand i).done = true ↔ (s.afterCommand i).err = false) := by
  rw [State.afterCommand, play_lineRd]
  refine settle_retires (s := (s.advance []).accept (encode i)) (fun lo hi' hask => ?_) rfl he
  obtain ⟨rs1, hmrt⟩ := eq_mrt_of_needDraw hask
  exact hi rs1 hmrt

section
variable {s s' : State} {i : Instr} {polls : Polls} {w : Word}

/-- A command but MRT is retired by the engine's first turn, and the read of STATUS after it ends the WAIT (R120, R327). -/
theorem issue_first_turn (hi : ∀ rs1, i ≠ .mrt rs1) (hb : s.busy = false) (he : s.err = false) (more : Polls) :
    issue i ([.engine] :: more) s = .ok (s.afterCommand i, (s.afterCommand i).statusWord) := by
  obtain ⟨hidle, -, -⟩ := afterCommand_retired hi he
  have hplay : play ([.engine] ++ [lineRd .status]) (play [lineCmd i] s) = s.afterCommand i := by
    rw [play_append, play_lineCmd i hb he, play_engine (i := i) rfl rfl (decode_eq_ok_iff_encode_eq.2 rfl),
      State.afterCommand, ← evaluate_accept hi s (encode i)]
    rfl
  rw [issue, waitFor_cons, ← play_poll_busy, ← play_poll_statusWord, hplay, if_neg (by rw [hidle]; decide)]

/-- The word a WAIT ends on has ERR, as the block then has it, in bit 2 (R38, R120). -/
theorem err_bit_of_issue (h : issue i polls s = .ok (s', w)) : w.getLsbD 2 = s'.err := by
  rw [issue] at h
  split at h
  · cases h
  · rename_i hwait
    cases h
    obtain ⟨-, -, -, -, -, rfl⟩ := waitFor_eq_some hwait
    obtain ⟨-, -, herr, -⟩ := statusWord_bits s'
    exact herr

/-- The host goes on after a command that left ERR 0 (R234). -/
theorem command_of_issue (h : issue i polls s = .ok (s', w)) (he : s'.err = false) :
    command i polls s = .ok (s', w) := by
  simp only [command, h, HostResult.ok_bind]
  exact if_neg (by rw [err_bit_of_issue h, he]; decide)

/-- The host stops after a command that left ERR 1, with the word it reads from ERR (R234). -/
theorem command_of_issue_fault (h : issue i polls s = .ok (s', w)) (he : s'.err = true) :
    command i polls s = .error (.fault s'.errWord) := by
  have hread : readWord (lineRd .err) s' = .ok (play [lineRd .err] s', s'.errWord) := by
    rw [readWord, play_lineRd]
    rfl
  simp only [command, h, HostResult.ok_bind, hread]
  exact if_pos ((err_bit_of_issue h).trans he)

end

/-- Settles O56: the engine's first turn retires the command, completing or faulting it, and acceptance left DONE 0; the
check reads ERR off the word of STATUS. -/
theorem commandStopsTheHostOnFault : Obligations.CommandStopsTheHostOnFault := by
  unfold Obligations.CommandStopsTheHostOnFault
  refine ⟨fun i more s hi hb he => ?_, fun i polls s s' w h => ⟨command_of_issue h, fun herr => ?_⟩⟩
  · obtain ⟨-, hdone, herr, ht, -⟩ := statusWord_bits (s.afterCommand i)
    obtain ⟨hidle, hcmd, hone⟩ := afterCommand_retired hi he
    exact ⟨_, _, issue_first_turn hi hb he more, hidle, hcmd, hdone, herr, ht, hone⟩
  · exact ⟨_, command_of_issue_fault h herr, errWord_toNat s'⟩

end Sys2Proof.Machine
end

section
/-! SUPPORT. The lines of the encryption sequence as rules from one idle block to the next (spec/44_host_sequences.md R234): a
command that completes or faults, the write of MLEN, LDX, STX (spec/30_encoding.md R120); and the statement about encryption on
the block. -/

namespace Sys2Proof.Machine

/-! ## The block between two host lines -/

/-- Idle and without ERR, with this NLIMB and these values in what a command but MRT reads (R46). -/
structure State.IdleWith (s : State) (nlimb : Nat) (x : OperandRegs) (bs mlen : Word) : Prop where
  busy : s.busy = false
  err : s.err = false
  nlimb : s.nlimb = nlimb
  x : s.x = x
  bs : s.bs = bs
  mlen : s.mlen = mlen

@[simp] theorem OperandRegs.set_get (x : OperandRegs) (r : Reg) : x.set r (x.get r) = x := by
  cases r <;> rfl

/-- The limbs of a value as an STX reads them stand for its low bits (R76, R120). -/
theorem stxValue_limbs (v n : Nat) : stxValue ((List.range n).map (limb v)) = v % 2 ^ (32 * n) := by
  induction n generalizing v with
  | zero => exact (Nat.mod_one v).symm
  | succ n ih =>
    have hlimb : limb v ∘ Nat.succ = limb (v / 2 ^ 32) := funext fun j => by
      rw [Function.comp_apply, limb, limb, Nat.mul_succ, add_comm, pow_add, Nat.div_div_eq_div_mul]
    rw [List.range_succ_eq_map, List.map_cons, List.map_map, hlimb, stxValue, ih, limb_toNat, Nat.mul_succ,
      add_comm (32 * n), pow_add, Nat.mod_mul, mul_zero, pow_zero, Nat.div_one]

section
variable {s : State} {n : Nat} {x : OperandRegs} {bs mlen : Word} (h : s.IdleWith n x bs mlen)
include h

theorem State.IdleWith.reg (r : Reg) : s.reg r = x.get r := by rw [State.reg, h.x]

theorem State.IdleWith.width : s.width = 32 * n := by rw [State.width, h.nlimb]

/-- A command that completes hands the host the block with its writes done (R57, R234). -/
theorem State.IdleWith.command_of_complete {i : Instr} {u : Updates} (hev : evaluate i s = .complete u)
    (hi : ∀ rs1, i ≠ .mrt rs1) (more : Polls) :
    ∃ s' w, command i ([.engine] :: more) s = .ok (s', w) ∧
      s'.IdleWith n (x.write u.dest) (u.bs.getD bs) mlen := by
  have hafter : (s.afterCommand i).IdleWith n (x.write u.dest) (u.bs.getD bs) mlen := by
    rw [State.afterCommand, hev, play_lineRd, ← h.x, ← h.bs]
    exact ⟨rfl, h.err, h.nlimb, rfl, rfl, h.mlen⟩
  exact ⟨_, _, command_of_issue (issue_first_turn hi h.busy h.err more) hafter.err, hafter⟩

/-- A command that faults stops the host with its code (R234, R272). -/
theorem State.IdleWith.command_of_fault {i : Instr} {c : FaultCode} (hev : evaluate i s = .fault c)
    (hi : ∀ rs1, i ≠ .mrt rs1) (more : Polls) :
    command i ([.engine] :: more) s = .error (.fault (c.code.setWidth 32)) := by
  have hafter : (s.afterCommand i).err = true ∧ (s.afterCommand i).errWord = c.code.setWidth 32 := by
    rw [State.afterCommand, hev, play_lineRd]
    exact ⟨rfl, rfl⟩
  rw [command_of_issue_fault (issue_first_turn hi h.busy h.err more) hafter.1, hafter.2]

/-- The write of a length of 32 bits (R51, R234). -/
theorem State.IdleWith.writeLength_ok {len : Nat} (hlen : len < 2 ^ 32) :
    ∃ s', writeLength len s = .ok s' ∧ s'.IdleWith n x bs (BitVec.ofNat 32 len) := by
  refine ⟨_, if_pos hlen, ?_⟩
  rw [play_lineWr, State.store, State.whenIdle, if_neg (by simp [h.busy])]
  exact ⟨h.busy, h.err, h.nlimb, h.x, h.bs, rfl⟩

/-- One limb write, as a host line (R74, R119). -/
theorem State.IdleWith.play_lineWrl {r : Reg} {j : Nat} (hj : j < n) (w : Word) (rest : List Event) :
    ∃ s', play (lineWrl n r j w :: rest) s = play rest s' ∧
      s'.IdleWith n (x.set r (setLimb (x.get r) j w)) bs mlen := by
  obtain rfl := h.nlimb
  refine ⟨_, play_cons rest (step_write_limb (s := { s with script := [lineWrl s.nlimb r j w] }) hj h.busy rfl), ?_⟩
  exact ⟨h.busy, h.err, rfl, by rw [← h.x]; rfl, h.bs, h.mlen⟩

/-- Limb writes of `v` to one register, one host line after another, are `setLimbs` of it (R74, R120). -/
theorem State.IdleWith.play_limbWrites {r : Reg} {v : Nat} {js : List Nat} (hjs : ∀ j ∈ js, j < n) :
    (play (js.map fun j => lineWrl n r j (limb v j)) s).IdleWith n (x.set r (setLimbs v (x.get r) js)) bs mlen := by
  induction js generalizing s x with
  | nil => simpa using h
  | cons j js ih =>
    rw [List.forall_mem_cons] at hjs
    obtain ⟨s', hplay, h'⟩ := h.play_lineWrl (r := r) hjs.1 (limb v j) (js.map fun j => lineWrl n r j (limb v j))
    have hrest := ih h' hjs.2
    rwa [OperandRegs.set_set, OperandRegs.get_set_same, ← hplay] at hrest

/-- LDX of a number that fits loads it (R120). -/
theorem State.IdleWith.loadReg_ok {r : Reg} {v : Nat} (hx : x.get r < 2 ^ (32 * n)) (hv : v < 2 ^ (32 * n)) :
    ∃ s', loadReg r v s = .ok s' ∧ s'.IdleWith n (x.set r v) bs mlen := by
  obtain rfl := h.nlimb
  refine ⟨_, if_pos hv, ?_⟩
  have hload := h.play_limbWrites (r := r) (v := v) (js := List.range s.nlimb) fun _ => List.mem_range.1
  rwa [setLimbs_range hx hv] at hload

/-- One limb read, as a host line (R74, R83, R119). -/
theorem State.IdleWith.readWord_lineRdl {r : Reg} {j : Nat} (hj : j < n) :
    ∃ s', readWord (lineRdl n r j) s = .ok (s', limb (x.get r) j) ∧ s'.IdleWith n x bs mlen := by
  obtain rfl := h.nlimb
  have hstep := step_read (s := { s with script := [lineRdl s.nlimb r j] }) rfl (resolve_limbOffset r hj)
  refine ⟨play [lineRdl s.nlimb r j] s, ?_, ?_⟩
  · rw [readWord, play_cons _ hstep, ← h.reg]
    rfl
  · rw [play_cons _ hstep]
    exact ⟨h.busy, h.err, rfl, h.x, h.bs, h.mlen⟩

/-- Limb reads of one register, one host line after another, give the limbs (R120). -/
theorem State.IdleWith.readWords_limbs {r : Reg} {js : List Nat} (hjs : ∀ j ∈ js, j < n) :
    ∃ s', readWords (js.map fun j => lineRdl n r j) s = .ok (s', js.map (limb (x.get r))) ∧
      s'.IdleWith n x bs mlen := by
  induction js generalizing s with
  | nil => exact ⟨s, rfl, h⟩
  | cons j js ih =>
    rw [List.forall_mem_cons] at hjs
    obtain ⟨s₁, hread, h₁⟩ := h.readWord_lineRdl (r := r) hjs.1
    obtain ⟨s₂, hrest, h₂⟩ := ih h₁ hjs.2
    refine ⟨s₂, ?_, h₂⟩
    simp only [List.map_cons, readWords, hread, hrest, HostResult.ok_bind]
    rfl

/-- STX of a register gives its value (R120). -/
theorem State.IdleWith.storeReg_ok {r : Reg} (hx : x.get r < 2 ^ (32 * n)) :
    ∃ s', storeReg r s = .ok (s', x.get r) ∧ s'.IdleWith n x bs mlen := by
  obtain rfl := h.nlimb
  obtain ⟨s', hread, h'⟩ := h.readWords_limbs (r := r) (js := List.range s.nlimb) fun _ => List.mem_range.1
  refine ⟨s', ?_, h'⟩
  simp only [storeReg, lineStx, hread, HostResult.ok_bind, stxValue_limbs, Nat.mod_eq_of_lt hx]
  rfl

end

/-! ## Encryption on the block -/

section
variable {s : State} {n : Nat} {x : OperandRegs} {bs mlen : Word} (h : s.IdleWith n x bs mlen)
include h

/-- The sequence up to the length check: BS holds the modulus's byte length and MLEN the message's (R234). -/
theorem State.IdleWith.setLengths {len : Nat} (hn : bytelen (s.reg .x3) < 2 ^ 32) (hlen : len < 2 ^ 32) (more : Polls) :
    ∃ s₁ w₁ s₂ bs' mlen', command (.blksz .x3) ([.engine] :: more) s = .ok (s₁, w₁) ∧ writeLength len s₁ = .ok s₂ ∧
      s₂.IdleWith n x bs' mlen' ∧ bs'.toNat = bytelen (s.reg .x3) ∧ mlen'.toNat = len := by
  obtain ⟨s₁, w₁, hblksz, h₁⟩ := h.command_of_complete (i := .blksz .x3) rfl nofun more
  obtain ⟨s₂, hwrite, h₂⟩ := h₁.writeLength_ok hlen
  exact ⟨s₁, w₁, s₂, _, _, hblksz, hwrite, h₂, (BitVec.toNat_ofNat _ _).trans (Nat.mod_eq_of_lt hn),
    (BitVec.toNat_ofNat _ _).trans (Nat.mod_eq_of_lt hlen)⟩

/-- Where the message fits, the length check lets the host go on with the block as it was (R207, R234). -/
theorem State.IdleWith.lenchk_ok (hfits : mlen.toNat + 11 ≤ bs.toNat) (more : Polls) :
    ∃ s' w, command .lenchk ([.engine] :: more) s = .ok (s', w) ∧ s'.IdleWith n x bs mlen :=
  h.command_of_complete (evaluate_lenchk_of_le (by rwa [h.mlen, h.bs])) nofun more

/-- Where it does not fit, the length check stops the host with code 6 (R207, R234). -/
theorem State.IdleWith.lenchk_fault (hlong : bs.toNat < mlen.toNat + 11) (more : Polls) :
    command .lenchk ([.engine] :: more) s = .error (.fault 6#32) :=
  h.command_of_fault (evaluate_lenchk_of_lt (by rwa [h.mlen, h.bs])) nofun more

/-- The sequence from LDX on: the value read from x5 is the ciphertext block (R233, R234). -/
theorem State.IdleWith.encryptBlock {v : Nat} (hx : ∀ r, x.get r < 2 ^ (32 * n)) (hbs : bs.toNat = bytelen (x.get .x3))
    (hmax : bs.toNat ≤ 32 * n / 8 - 1) (hL : bytelen v + 2 ≤ bs.toNat) (more more' : Polls) :
    ∃ s₁ s₂ w₂ s₃ w₃ s₄, loadReg .x1 v s = .ok s₁ ∧
      command (.pad .x4 .x1) ([.engine] :: more) s₁ = .ok (s₂, w₂) ∧
      command (.modexp .x5 .x4 .x2 .x3) ([.engine] :: more') s₂ = .ok (s₃, w₃) ∧
      storeReg .x5 s₃ = .ok (s₄, modexp (padBlock v bs.toNat) (x.get .x2) (x.get .x3)) := by
  have hv : v < 2 ^ (32 * n) :=
    (bytelen_le_iff.1 (by omega : bytelen v ≤ 4 * n)).trans_eq (congrArg (2 ^ ·) (by omega))
  have hpos : 0 < x.get .x3 := pos_of_bytelen_pos (by omega)
  obtain ⟨s₁, hload, h₁⟩ := h.loadReg_ok (hx .x1) hv
  have hv₁ : s₁.reg .x1 = v := by rw [h₁.reg, OperandRegs.get_set_same]
  have hpad := evaluate_pad_of_fits .x4 (s := s₁) (rs1 := .x1) (by rw [h₁.bs, h₁.width]; exact hmax)
    (by rw [h₁.bs, hv₁]; exact hL)
  rw [h₁.bs, hv₁, ← padBlock_of_le hL] at hpad
  obtain ⟨s₂, w₂, hpad, h₂⟩ := h₁.command_of_complete hpad nofun more
  have hb₂ : s₂.reg .x4 = padBlock v bs.toNat := h₂.reg .x4
  have he₂ : s₂.reg .x2 = x.get .x2 := h₂.reg .x2
  have hn₂ : s₂.reg .x3 = x.get .x3 := h₂.reg .x3
  have hmodexp := evaluate_modexp_of_ne_zero .x5 .x4 .x2 (s := s₂) (rs3 := .x3) (by rw [hn₂]; exact hpos.ne')
  rw [hb₂, he₂, hn₂, ← modexp_eq] at hmodexp
  obtain ⟨s₃, w₃, hmodexp, h₃⟩ := h₂.command_of_complete hmodexp nofun more'
  have hc : modexp (padBlock v bs.toNat) (x.get .x2) (x.get .x3) < 2 ^ (32 * n) := by
    rw [modexp_eq]
    exact (Nat.mod_lt _ hpos).trans (hx .x3)
  obtain ⟨s₄, hstore, -⟩ := h₃.storeReg_ok (r := .x5) hc
  exact ⟨s₁, s₂, w₂, s₃, w₃, s₄, hload, hpad, hmodexp, hstore⟩

end

section
variable {s : State} {m : List Byte} (more : Nat → Polls) (h : s.Fits) (hb : s.busy = false) (he : s.err = false)
  (hlen : m.length < 2 ^ 32)
include h hb he hlen

/-- A message too long stops the host at LENCHK, with code 6 (R234). -/
theorem encryptOnBlock_of_lt (hlong : bytelen (s.reg .x3) < m.length + 11) :
    encryptOnBlock (fun k => [.engine] :: more k) m (s.reg .x3) s = .error (.fault 6#32) := by
  obtain ⟨s₁, w₁, s₂, bs, mlen, hblksz, hwrite, h₂, hbs, hmlen⟩ :=
    State.IdleWith.setLengths ⟨hb, he, rfl, rfl, rfl, rfl⟩ (h.bytelen_lt .x3) hlen (more 0)
  have hlenchk := h₂.lenchk_fault (by rwa [hbs, hmlen]) (more 1)
  simp only [encryptOnBlock, hblksz, hwrite, hlenchk, HostResult.ok_bind, HostResult.error_bind]

/-- A message that fits is encrypted to what R233 says. -/
theorem encryptOnBlock_of_le (hmax : bytelen (s.reg .x3) ≤ s.bsMax) (hfits : m.length + 11 ≤ bytelen (s.reg .x3)) :
    ∃ s' result, encrypt m (s.reg .x3) (s.reg .x2) = some result ∧
      encryptOnBlock (fun k => [.engine] :: more k) m (s.reg .x3) s = .ok (s', result) := by
  obtain ⟨s₁, w₁, s₂, bs, mlen, hblksz, hwrite, h₂, hbs, hmlen⟩ :=
    State.IdleWith.setLengths ⟨hb, he, rfl, rfl, rfl, rfl⟩ (h.bytelen_lt .x3) hlen (more 0)
  obtain ⟨s₃, w₃, hlenchk, h₃⟩ := h₂.lenchk_ok (by rwa [hbs, hmlen]) (more 1)
  by_cases hne : m = []
  · subst hne
    refine ⟨s₃, _, encrypt_nil _ (by simpa using hfits), ?_⟩
    simp only [encryptOnBlock, hblksz, hwrite, hlenchk, HostResult.ok_bind]
    rfl
  · obtain ⟨s₄, s₅, w₅, s₆, w₆, s₇, hload, hpad, hmodexp, hstore⟩ := h₃.encryptBlock h.regs hbs
      (hbs.trans_le hmax) (hbs ▸ bytelen_fromBe_add_two_le hfits) (more 2) (more 3)
    rw [hbs] at hstore
    refine ⟨s₇, _, encrypt_of_le _ hne hfits, ?_⟩
    simp only [encryptOnBlock, hblksz, hwrite, hlenchk, hload, hpad, hmodexp, hstore, HostResult.ok_bind]
    exact if_neg (by simpa using hne)

end

/-- Settles O57: where the message fits, each line of the sequence hands the next one the block it needs and the value read from
x5 is the ciphertext block; where it does not, LENCHK faults. -/
theorem encryptOnBlockAgreesWithEncrypt : Obligations.EncryptOnBlockAgreesWithEncrypt := by
  unfold Obligations.EncryptOnBlockAgreesWithEncrypt
  intro s m more h hb he hmax hlen
  rcases Nat.lt_or_ge (bytelen (s.reg .x3)) (m.length + 11) with hlong | hfits
  · refine ⟨fun _ => encryptOnBlock_of_lt more h hb he hlen hlong, fun result hr => ?_⟩
    rw [encrypt_of_lt _ hlong] at hr
    cases hr
  · obtain ⟨s', result, henc, hrun⟩ := encryptOnBlock_of_le more h hb he hlen hmax hfits
    rw [henc]
    exact ⟨nofun, by rintro _ ⟨⟩; exact ⟨s', hrun⟩⟩

end Sys2Proof.Machine
end

section
/-! SUPPORT. The return from a fault (spec/60_exceptions.md R277): the acknowledging STATUS write and the CMD write after it, each
as one step; and the statement about the two in a row. -/

namespace Sys2Proof.Machine

variable {s : State} {rest : List Event}

/-- A STATUS write is performed whatever BUSY and ERR are (R38). -/
theorem step_write_status {w : Word} (h : s.script = .hostWrite 0x04 4 w :: rest) :
    step s = .next (((s.advance rest).writeStatus w).respond .okay) := step_write_ctl .status h

/-- A STATUS write with bit 2 set clears ERR and, with it, CODE (R38, R41). -/
theorem State.writeStatus_clears_err (s : State) {w : Word} (hw : w.getLsbD 2 = true) :
    (s.writeStatus w).err = false ∧ (s.writeStatus w).errCode = 0#8 := by
  simp [hw]

/-- A CMD write on an idle block without ERR is accepted (R37). -/
theorem step_write_cmd_of_idle {c : Word} (hb : s.busy = false) (he : s.err = false)
    (h : s.script = .hostWrite 0 4 c :: rest) : step s = .next (((s.advance rest).accept c).respond .okay) := by
  rw [step_write_ctl .cmd h, State.store, State.writeCmd_of_idle (s := s.advance rest) hb he]

/-- Settles O18: the STATUS write touches only the flags and CODE, and leaves the block idle without ERR, where the CMD write
is accepted. -/
theorem faultReturnAllowsNextCommand : Obligations.FaultReturnAllowsNextCommand := by
  unfold Obligations.FaultReturnAllowsNextCommand
  intro s w c rest hb _ hw hs
  obtain ⟨herr, hcode⟩ := (s.advance (.hostWrite 0 4 c :: rest)).writeStatus_clears_err hw
  exact ⟨_, _, step_write_status hs, herr, hcode, rfl, rfl, rfl, rfl, rfl, rfl,
    step_write_cmd_of_idle (rest := rest) hb herr rfl, rfl, rfl, rfl⟩

end Sys2Proof.Machine
end

section
/-! SUPPORT. Reset as a step, an answer that comes when no request is outstanding (spec/70_reset_and_hazards.md R300 to R302),
and that every state has a next one (R311). -/

namespace Sys2Proof.Machine

variable {s : State} {rest : List Event}

/-- A reset's step: nothing of the state is read but NLIMB and the moves to come (R300, R301). -/
theorem step_reset (h : s.script = .reset :: rest) :
    step s = .next { State.resetOf s.nlimb with script := rest } := by
  rw [step, h]
  rfl

/-- An answer while no request is outstanding only leaves the list of moves (R302). -/
theorem step_answer_of_not_pending {v : Nat} (hp : s.pending = none) (h : s.script = .answer v :: rest) :
    step s = .next (s.advance rest) := by
  rw [step_answer h, State.takeAnswer_of_not_pending (s := s.advance rest) hp]

/-- Settles O12: reset keeps only NLIMB and the moves to come, so no request is outstanding and the next move, if it is an
answer, is ignored. -/
theorem resetAbandonsCommandInFlight : Obligations.ResetAbandonsCommandInFlight := by
  unfold Obligations.ResetAbandonsCommandInFlight
  intro s rest hs
  refine ⟨step_reset hs, fun v rest' hrest => ?_⟩
  exact step_answer_of_not_pending (s := { State.resetOf s.nlimb with script := rest }) rfl hrest

/-- Settles O8: each agent's move answers a next state, and so does each outcome of the engine's turn. -/
theorem everyStepAnswersNext : Obligations.EveryStepAnswersNext := by
  unfold Obligations.EveryStepAnswersNext
  exact exists_step

end Sys2Proof.Machine
end
